-- ==== Sys2Proof/Word.lean ====
section
/-! DEFINITION. The word types of the engine and the plainest byte-order arithmetic (00_scope.md R11, R12). -/

namespace Sys2Proof

/-- One byte on the wire (R12). -/
abbrev Byte := BitVec 8

/-- A 16-bit field or checksum word (R7). -/
abbrev Word16 := BitVec 16

/-- A status register or a receiver counter (10_state.md R28, R36). -/
abbrev Word32 := BitVec 32

/-- A byte string: a message, a payload or a datagram; index 0 is the first byte on the wire (R12). -/
abbrev Bytes := List Byte

end Sys2Proof
end

