-- ==== Sys2Proof/Config.lean ====
section
/-! DEFINITION. The parameters of an engine (00_scope.md R6), its constants (R7) and the model's free values. -/

namespace Sys2Proof

/-- The 8 bytes of the protocol constant `MAGIC`, in wire order (R6, 30_encoding.md R92). -/
structure Magic where
  b0 : Byte
  b1 : Byte
  b2 : Byte
  b3 : Byte
  b4 : Byte
  b5 : Byte
  b6 : Byte
  b7 : Byte
deriving DecidableEq, Repr, Inhabited

/-- `MAGIC` as a byte string. -/
def Magic.bytes (m : Magic) : Bytes := [m.b0, m.b1, m.b2, m.b3, m.b4, m.b5, m.b6, m.b7]

/-- The four parameters of R6, fixed for the lifetime of an engine. `MAX_PAYLOAD` lies in 0 to 16371 by its type. -/
structure Config where
  magic        : Magic
  maxPayload   : Fin 16372
  timeoutTicks : Word16
  ackVerify    : Bool
deriving DecidableEq, Repr

/-- The legal range of `TIMEOUT_TICKS` is 1 to 65535 (R6). -/
def Config.wf (c : Config) : Bool := c.timeoutTicks != 0#16

/-- `HDR_LEN` (R7). -/
abbrev hdrLen : Nat := 12

/-- `MAX_DGRAM` = `HDR_LEN` + `MAX_PAYLOAD` (R7). -/
def Config.maxDgram (c : Config) : Nat := hdrLen + c.maxPayload.val

/-- The magic of the machine after `State.reset`. R6 leaves `MAGIC` OPEN: no value is given, so none can be proved
(DESIGN CHOICE, log 2, safe). -/
opaque Config.openMagic : Magic

/-- The unspecified content of `S.outBuf` after the `n`-th reset (10_state.md R23, 93_implementation_defined.md I10:
`any value`; DESIGN CHOICE, log 3, safe). -/
opaque Config.freeOutBuf : Nat → Bytes

/-- The defaults of R6, with the open magic. -/
def Config.default : Config where
  magic        := Config.openMagic
  maxPayload   := ⟨16371, by decide⟩
  timeoutTicks := 3#16
  ackVerify    := true

end Sys2Proof
end

