-- ==== Sys2Proof/Syntax.lean ====
section
/-! DEFINITION. The operation set: one constructor of `Instr` per row of spec/opcode_table.json
(30_encoding.md R94 and R99). -/

namespace Sys2Proof

/-- The fields of a packet beside its class bits (30_encoding.md R90, R92): everything but ackFlag and seqNum. -/
structure Packet where
  magic       : Magic
  checksum    : Word16
  totalLength : BitVec 14
  payload     : Bytes
deriving DecidableEq, Repr

/-- What the engine responds to. The first four are the packet classes of R94, as a packet that reaches the engine
which consumes its class; the others are the transactions and trace directives of R99. -/
inductive Instr where
  /-- `DATA_SEQ0`: a data packet with seqNum 0 reaches the receiver on `r_rx`. -/
  | dataSeq0 (p : Packet)
  /-- `DATA_SEQ1`: a data packet with seqNum 1 reaches the receiver on `r_rx`. -/
  | dataSeq1 (p : Packet)
  /-- `ACK_SEQ0`: an ack packet with seqNum 0 reaches the sender on `s_rx`. -/
  | ackSeq0 (p : Packet)
  /-- `ACK_SEQ1`: an ack packet with seqNum 1 reaches the sender on `s_rx`. -/
  | ackSeq1 (p : Packet)
  /-- `S_SEND`, code 0x01, format T1. -/
  | sSend (m : Bytes)
  /-- `S_RESP`, code 0x02, format T1. -/
  | sResp (d : Bytes)
  /-- `S_TICK`, code 0x03, format T0. -/
  | sTick
  /-- `R_DGRAM`, code 0x08, format T1. -/
  | rDgram (d : Bytes)
  /-- `C_CSUM`, code 0x10, format T1. -/
  | cCsum (b : Bytes)
  /-- `C_VERIFY`, code 0x11, format T1. -/
  | cVerify (b : Bytes)
  /-- `C_ENCODE`, code 0x12, format T2: flags[1] = ackFlag, flags[0] = seqNum. -/
  | cEncode (ackFlag seqNum : Bool) (p : Bytes)
  /-- `C_DECODE`, code 0x13, format T1. -/
  | cDecode (b : Bytes)
  /-- `H_READ`, code 0x20, format T3. -/
  | hRead (a : BitVec 4)
  /-- `S_TXFAIL`, code 0x40, format T0. -/
  | sTxFail
  /-- `R_TXFAIL`, code 0x41, format T0. -/
  | rTxFail
  /-- `RST`, code 0xFF, format T0. -/
  | rst
deriving DecidableEq, Repr

/-- Where an instruction is spelled: packets on the wire, transactions and directives as trace records
(30_encoding.md, opening: two layers). -/
inductive Channel where
  | wire
  | trace
deriving DecidableEq, Repr

/-- The channel of each instruction. -/
def Instr.channel : Instr → Channel
  | .dataSeq0 _ => .wire
  | .dataSeq1 _ => .wire
  | .ackSeq0 _ => .wire
  | .ackSeq1 _ => .wire
  | .sSend _ => .trace
  | .sResp _ => .trace
  | .sTick => .trace
  | .rDgram _ => .trace
  | .cCsum _ => .trace
  | .cVerify _ => .trace
  | .cEncode _ _ _ => .trace
  | .cDecode _ => .trace
  | .hRead _ => .trace
  | .sTxFail => .trace
  | .rTxFail => .trace
  | .rst => .trace

/-- Why bytes spell no instruction: the four cases of 30_encoding.md R112 for a trace record, and a datagram too short
to hold a header (R98). -/
inductive DecodeError where
  /-- The code byte is not in R99. -/
  | reservedCode (code : Byte)
  /-- A T2 record with flags[7:2] not 0. -/
  | reservedFlags (flags : Byte)
  /-- A T3 record with addr[7:4] not 0. -/
  | reservedAddr (addr : Byte)
  /-- The trace ends inside a record. -/
  | truncatedRecord
  /-- A datagram shorter than 12 bytes has no packet class. -/
  | headerMissing
deriving DecidableEq, Repr

end Sys2Proof
end

