-- ==== Sys2Proof/WellFormed.lean ====
section
/-! DEFINITION. Which instructions are well formed: the operand limits of 30_encoding.md R101 and R110. -/

namespace Sys2Proof

/-- The largest operand, the largest value of a 16-bit `len` (R101, R110). -/
abbrev operandLimit : Nat := 65535

/-- A byte-string operand within the limit. -/
def operandOk (b : Bytes) : Bool := b.length ≤ operandLimit

/-- A packet whose whole datagram is within the limit (20_memory.md R81). -/
def Packet.wf (p : Packet) : Bool := hdrLen + p.payload.length ≤ operandLimit

/-- R101, for every form. -/
def Instr.wf : Instr → Bool
  | .dataSeq0 p => p.wf
  | .dataSeq1 p => p.wf
  | .ackSeq0 p => p.wf
  | .ackSeq1 p => p.wf
  | .sSend m => operandOk m
  | .sResp d => operandOk d
  | .sTick => true
  | .rDgram d => operandOk d
  | .cCsum b => operandOk b
  | .cVerify b => operandOk b
  | .cEncode _ _ p => operandOk p
  | .cDecode b => operandOk b
  | .hRead _ => true
  | .sTxFail => true
  | .rTxFail => true
  | .rst => true

end Sys2Proof
end

