-- ==== Sys2Proof/Decode.lean ====
section
/-! DEFINITION. The two decoders (trace records, 30_encoding.md R109 and R112; wire packets, R90, R91, R94), total on
any bytes, and after them the encoder. -/

namespace Sys2Proof

/-! ## Byte order (00_scope.md R12, 20_memory.md R62) -/

/-- `be16(v)`: the two bytes of a 16-bit value, high byte first. -/
def be16 (v : Word16) : Bytes := [v.extractLsb' 8 8, v.extractLsb' 0 8]

/-- The 16-bit value of a high and a low byte. -/
def word16 (hi lo : Byte) : Word16 := hi ++ lo

/-- `u16be(b, i)`: the big-endian word at offset `i`; bytes past the end count as 0 (no rule reads one, R61). -/
def u16be (b : Bytes) (i : Nat) : Word16 := word16 (b.getD i 0#8) (b.getD (i + 1) 0#8)

/-! ## The packed header (R91) -/

/-- `H = (totalLength << 2) | (ackFlag << 1) | seqNum` (R91), as its three fields side by side. -/
def packHeader (totalLength : BitVec 14) (ackFlag seqNum : Bool) : Word16 :=
  totalLength ++ BitVec.ofBool ackFlag ++ BitVec.ofBool seqNum

/-- `H[15:2]` (20_memory.md R64). -/
def headerLength (h : Word16) : BitVec 14 := h.extractLsb' 2 14

/-- `H[1]`. -/
def headerAck (h : Word16) : Bool := h.getLsbD 1

/-- `H[0]`. -/
def headerSeq (h : Word16) : Bool := h.getLsbD 0

/-! ## Wire packets -/

/-- The bytes of a packet in the order of R90: magic, checksum, packed header, payload. -/
def wireBytes (p : Packet) (ackFlag seqNum : Bool) : Bytes :=
  p.magic.bytes ++ be16 p.checksum ++ be16 (packHeader p.totalLength ackFlag seqNum) ++ p.payload

/-- The class of R94 that the low two bits of `H` select. -/
def packetOfClass (h : Word16) (p : Packet) : Instr :=
  match headerAck h, headerSeq h with
  | false, false => .dataSeq0 p
  | false, true => .dataSeq1 p
  | true, false => .ackSeq0 p
  | true, true => .ackSeq1 p

/-- Decodes a datagram by R90 and R94. Every datagram of 12 bytes or more is a packet of one class (R97). -/
def decodeWire : Bytes → Except DecodeError Instr
  | m0 :: m1 :: m2 :: m3 :: m4 :: m5 :: m6 :: m7 :: c0 :: c1 :: h0 :: h1 :: payload =>
    let h := word16 h0 h1
    .ok (packetOfClass h ⟨⟨m0, m1, m2, m3, m4, m5, m6, m7⟩, word16 c0 c1, headerLength h, payload⟩)
  | _ => .error .headerMissing

/-! ## Trace records (R109) -/

/-- The byte-string operand of a T1 or T2 record: `len[15:8] len[7:0]` and `len` bytes; what follows is the rest. -/
def takeOperand : Bytes → Except DecodeError (Bytes × Bytes)
  | l1 :: l0 :: rest =>
    let n := (word16 l1 l0).toNat
    if rest.length < n then .error .truncatedRecord else .ok (rest.take n, rest.drop n)
  | _ => .error .truncatedRecord

/-- A T1 record after its code byte. -/
def decodeT1 (mk : Bytes → Instr) (b : Bytes) : Except DecodeError (Instr × Bytes) :=
  match takeOperand b with
  | .ok (v, rest) => .ok (mk v, rest)
  | .error e => .error e

/-- A T2 record after its code byte: `flags[7:2]` must be 0, `flags[1]` is ackFlag and `flags[0]` is seqNum. -/
def decodeT2 : Bytes → Except DecodeError (Instr × Bytes)
  | flags :: b =>
    if flags.extractLsb' 2 6 ≠ 0#6 then .error (.reservedFlags flags)
    else decodeT1 (.cEncode (flags.getLsbD 1) (flags.getLsbD 0)) b
  | [] => .error .truncatedRecord

/-- A T3 record after its code byte: `addr[7:4]` must be 0. -/
def decodeT3 : Bytes → Except DecodeError (Instr × Bytes)
  | addr :: b =>
    if addr.extractLsb' 4 4 ≠ 0#4 then .error (.reservedAddr addr)
    else .ok (.hRead (addr.extractLsb' 0 4), b)
  | [] => .error .truncatedRecord

/-- Decodes the first record of a trace by its code byte (R99) and gives the bytes after it. -/
def decodeRecord : Bytes → Except DecodeError (Instr × Bytes)
  | [] => .error .truncatedRecord
  | code :: b =>
    if code = 0x01#8 then decodeT1 .sSend b
    else if code = 0x02#8 then decodeT1 .sResp b
    else if code = 0x03#8 then .ok (.sTick, b)
    else if code = 0x08#8 then decodeT1 .rDgram b
    else if code = 0x10#8 then decodeT1 .cCsum b
    else if code = 0x11#8 then decodeT1 .cVerify b
    else if code = 0x12#8 then decodeT2 b
    else if code = 0x13#8 then decodeT1 .cDecode b
    else if code = 0x20#8 then decodeT3 b
    else if code = 0x40#8 then .ok (.sTxFail, b)
    else if code = 0x41#8 then .ok (.rTxFail, b)
    else if code = 0xFF#8 then .ok (.rst, b)
    else .error (.reservedCode code)

/-- The decoder: on the wire one datagram is one packet, in a trace the first record is read and the rest given back. -/
def decode : Channel → Bytes → Except DecodeError (Instr × Bytes)
  | .wire, b =>
    match decodeWire b with
    | .ok i => .ok (i, [])
    | .error e => .error e
  | .trace, b => decodeRecord b

/-- Decodes up to `n` records; `n` bounds the recursion. -/
def decodeRecords : Nat → Bytes → Except DecodeError (List Instr)
  | _, [] => .ok []
  | 0, _ :: _ => .error .truncatedRecord
  | n + 1, b@(_ :: _) =>
    match decodeRecord b with
    | .error e => .error e
    | .ok (i, rest) =>
      match decodeRecords n rest with
      | .error e => .error e
      | .ok is => .ok (i :: is)

/-- All records of a trace; a record has at least one byte, so the trace's length bounds their number. One record that
spells no transaction refuses the whole trace (44_host.md R256). -/
def decodeTrace (b : Bytes) : Except DecodeError (List Instr) := decodeRecords b.length b

/-! ## The encoder -/

/-- `len[15:8] len[7:0]` and the bytes (R109). -/
def encodeOperand (v : Bytes) : Bytes := be16 (BitVec.ofNat 16 v.length) ++ v

/-- The words of an instruction: wire bytes (R90) or the trace record (R109). -/
def encode : Instr → Bytes
  | .dataSeq0 p => wireBytes p false false
  | .dataSeq1 p => wireBytes p false true
  | .ackSeq0 p => wireBytes p true false
  | .ackSeq1 p => wireBytes p true true
  | .sSend m => 0x01#8 :: encodeOperand m
  | .sResp d => 0x02#8 :: encodeOperand d
  | .sTick => [0x03#8]
  | .rDgram d => 0x08#8 :: encodeOperand d
  | .cCsum b => 0x10#8 :: encodeOperand b
  | .cVerify b => 0x11#8 :: encodeOperand b
  | .cEncode a q p => 0x12#8 :: (0#6 ++ BitVec.ofBool a ++ BitVec.ofBool q : BitVec (6 + 1 + 1)) :: encodeOperand p
  | .cDecode b => 0x13#8 :: encodeOperand b
  | .hRead a => [0x20#8, (0#4 ++ a : BitVec (4 + 4))]
  | .sTxFail => [0x40#8]
  | .rTxFail => [0x41#8]
  | .rst => [0xFF#8]

/-- The bytes of a whole trace. -/
def encodeTrace (is : List Instr) : Bytes := is.flatMap encode

/-! ## Words numbered as spec/opcode_table.json numbers them -/

/-- The bytes of a table word in memory order, low byte first, `n` of them. -/
def tableBytes : Nat → Nat → Bytes
  | 0, _ => []
  | n + 1, w => BitVec.ofNat 8 w :: tableBytes n (w / 256)

/-- A 16-bit row is the packed header `H` of a packet whose other bytes are 0 (log 16). -/
def tablePacket (w : Nat) : Bytes := List.replicate 10 0#8 ++ be16 (BitVec.ofNat 16 w)

/-- Any other row is a trace record: its bytes and the zero bytes above them; a record without operand bytes has at
most 4 bytes. -/
def tableRecord (nbits w : Nat) : Bytes :=
  tableBytes ((nbits + 7) / 8) (w % 2 ^ nbits) ++ List.replicate 4 0#8

/-- The channel of a table row: the packet rows are 16 bits wide, the record rows 8 (30_encoding.md R94, R99). -/
def tableChannel (nbits : Nat) : Channel := if nbits = 16 then .wire else .trace

/-- The bytes to decode for a table word. -/
def tableWord (nbits w : Nat) : Bytes :=
  match tableChannel nbits with
  | .wire => tablePacket w
  | .trace => tableRecord nbits w

/-- The instruction this decoder reads from a table word. -/
def decodeTableWord (nbits w : Nat) : Option Instr :=
  match decode (tableChannel nbits) (tableWord nbits w) with
  | .ok (i, _) => some i
  | .error _ => none

end Sys2Proof
end

