-- ==== Sys2Proof/Machine/State.lean ====
section
/-! DEFINITION. The state of one engine (10_state.md), what its environment offers, the reasons a step can stop, and
the state after reset (R52). -/

namespace Sys2Proof.Machine

/-- The sender's control state (R21). The code 11 is left out, as R21 allows (log 19). -/
inductive SState where
  | ready
  | waitAck
  | fatal
deriving DecidableEq, Repr

/-- The sender's cause codes (60_exceptions.md R271). -/
inductive SCause where
  | none
  | corrupt
  | timeout
  | staleAck
  | fatal
  | tooLong
  | confirmed
  | sent
deriving DecidableEq, Repr

/-- The receiver's cause codes (R271). -/
inductive RCause where
  | none
  | corrupt
  | duplicate
  | fatal
  | accepted
deriving DecidableEq, Repr

/-- The receiver's control state, a function of its fields (R29). -/
inductive RState where
  | waitForEven
  | waitForOdd
  | fatal
deriving DecidableEq, Repr

/-- The sender engine `S` (R20). -/
structure Sender where
  state      : SState
  curSeq     : Bool
  outBuf     : Bytes
  outLen     : BitVec 14
  timerArmed : Bool
  timerCnt   : Word16
  retx       : Word16
  last       : SCause
deriving DecidableEq, Repr

/-- The receiver engine `R` (R28). -/
structure Receiver where
  expSeq     : Bool
  lastAck    : Bool
  fatal      : Bool
  last       : RCause
  cntAccept  : Word32
  cntCorrupt : Word32
  cntDup     : Word32
deriving DecidableEq, Repr

/-- The engines that transmit, and so can enter FATAL (60_exceptions.md R276). -/
inductive Agent where
  | sender
  | receiver
deriving DecidableEq, Repr

/-- The transport's answer to a `Transmit` (20_memory.md R70). -/
inductive Answer where
  | ok
  | err
deriving DecidableEq, Repr

/-- The kinds of output event (44_host.md R257). -/
inductive Event where
  | sTx (d : Bytes)
  | rTx (d : Bytes)
  | sDone
  | sMsgErr
  | rDlv (p : Bytes)
  | cRsp (b : Bytes)
  | hRdata (v : Word32)
  | fatal (a : Agent)
deriving DecidableEq, Repr

/-- A request on `c_req`: `c_op`, `c_flags` and the byte string (30_encoding.md R102, R113). -/
structure CodecReq where
  op    : BitVec 2
  flags : BitVec 2
  data  : Bytes
deriving DecidableEq, Repr

/-- What the environment drives on the input ports of R102: each offer is one whole transaction (R9), and `rDlvReady`
is the level by which the application takes a payload on `r_dlv` (70_reset_and_hazards.md R311). -/
structure Ports where
  rst  : Bool
  sRx  : Option Bytes
  rRx  : Option Bytes
  tick : Bool
  sMsg : Option Bytes
  cReq : Option CodecReq
  hRd  : Option (BitVec 4)
  rDlvReady : Bool
deriving DecidableEq, Repr

/-- Nothing is offered, and the application takes payloads, as R73 lets a trace assume (log 14). -/
def Ports.idle : Ports := ⟨false, none, none, false, none, none, none, true⟩

/-- The machine: parameters, the two engines, the harness flags of R253 and R254, the port inputs, the trace records
not yet applied, the observation (R257) and the number of records applied, which tags its events. `rBusy` is the
payload that a receiver transaction in progress, in its accept branch, offers on `r_dlv` and that the application has
not taken yet (70_reset_and_hazards.md R311); `traceWaits` says that this transaction is a trace record, at which the trace is
stuck (93_implementation_defined.md I24); their form is log 26. `draws` numbers the free values of `S.outBuf` and is the model's own field (log 3). -/
structure State where
  cfg   : Config
  S     : Sender
  R     : Receiver
  failS : Bool
  failR : Bool
  rBusy : Option Bytes
  traceWaits : Bool
  ports : Ports
  trace : Bytes
  log   : List (Nat × Event)
  recNo : Nat
  draws : Nat
deriving DecidableEq, Repr

/-- The hardware has no fault (60_exceptions.md R272: "No other condition exists"; a transport failure is the state FATAL, and an
out-of-range buffer access is reached by no rule, 20_memory.md R61). So this type has no constructor: no step of
this machine can end in a fault. Safe. -/
inductive Fault : Type
deriving DecidableEq, Repr

/-- Why a step refuses. -/
inductive Refusal where
  /-- Raised by an arm of `exec` whose instruction has no meaning yet; no arm does. Safe. -/
  | notModelled (mnemonic : String)
  /-- Raised by `step` when the first record of the trace spells no transaction (30_encoding.md R112). Safe. -/
  | spellsNoTransaction (e : DecodeError)
deriving DecidableEq, Repr

/-- The sender after reset (R52), with the given unspecified buffer content. -/
def Sender.reset (outBuf : Bytes) : Sender where
  state      := .ready
  curSeq     := false
  outBuf     := outBuf
  outLen     := 0#14
  timerArmed := false
  timerCnt   := 0#16
  retx       := 0#16
  last       := .none

/-- The receiver after reset (R52): `R.lastAck` is 1 (70_reset_and_hazards.md R302). -/
def Receiver.reset : Receiver where
  expSeq     := false
  lastAck    := true
  fatal      := false
  last       := .none
  cntAccept  := 0#32
  cntCorrupt := 0#32
  cntDup     := 0#32

/-- The free content of `S.outBuf` after the reset number `n`, within its size (R20; log 3). -/
def resetOutBuf (c : Config) (n : Nat) : Bytes := (Config.freeOutBuf n).take c.maxDgram

/-- An engine with the parameters `c` right after reset, nothing offered and no trace placed. -/
def State.resetWith (c : Config) : State where
  cfg   := c
  S     := Sender.reset (resetOutBuf c 0)
  R     := Receiver.reset
  failS := false
  failR := false
  rBusy := none
  traceWaits := false
  ports := Ports.idle
  trace := []
  log   := []
  recNo := 0
  draws := 1

/-- The machine right after reset, with the default parameters of R6. -/
def State.reset : State := State.resetWith Config.default

end Sys2Proof.Machine
end

