-- ==== Sys2Proof/Machine/Checksum.lean ====
section
/-! DEFINITION. The checksum engine (40_checksum.md): Sum16, Checksum, Verify, and the streaming form of R137. -/

namespace Sys2Proof.Machine

/-- The unfolded sum of the 16-bit big-endian words of `b`; a trailing odd byte is a high byte with a zero low byte
(20_memory.md R63, R130). -/
def wordSum : Bytes → Nat
  | [] => 0
  | [hi] => hi.toNat * 256
  | hi :: lo :: rest => (hi.toNat * 256 + lo.toNat) + wordSum rest

/-- One pass of the fold of R130. -/
def foldPass (acc : Nat) : Nat := (acc &&& 0xFFFF) + (acc >>> 16)

/-- `while acc > 0xFFFF: acc <- foldPass(acc)` (R130), with a bound on the passes. -/
def foldCarries : Nat → Nat → Nat
  | 0, acc => acc
  | n + 1, acc => if 0xFFFF < acc then foldCarries n (foldPass acc) else acc

/-- `Sum16(b)` (R130). Each pass makes `acc` smaller, so `acc` itself bounds their number. -/
def sum16 (b : Bytes) : Word16 := BitVec.ofNat 16 (foldCarries (wordSum b) (wordSum b))

/-- `Checksum(b) = ~Sum16(b)` (R133). -/
def checksum (b : Bytes) : Word16 := ~~~ sum16 b

/-- `Verify(b) = (Sum16(b) = 0xFFFF)` (R134). -/
def verify (b : Bytes) : Bool := sum16 b == 0xFFFF#16

/-! ## The streaming form (R137) -/

/-- The state of the streaming sum, which lives only inside one transaction (10_state.md R53). -/
structure StreamAcc where
  acc : Word16
  odd : Bool
  hi  : Byte
deriving DecidableEq, Repr

/-- `add1c(a, w)`: 16-bit addition with end-around carry, through the 17-bit sum. -/
def add1c (a w : Word16) : Word16 :=
  let t := a.toNat + w.toNat
  if 0xFFFF < t then BitVec.ofNat 16 (t - 0x10000 + 1) else BitVec.ofNat 16 t

/-- `start`. R137 sets `acc` and `odd` only; the start value 0 of `hi` is the model's (DESIGN CHOICE, log 25, safe: `hi`
is written before it is read). -/
def streamStart : StreamAcc := ⟨0#16, false, 0#8⟩

/-- `byte x`. -/
def streamByte (st : StreamAcc) (x : Byte) : StreamAcc :=
  if st.odd then { st with acc := add1c st.acc (word16 st.hi x), odd := false }
  else { st with hi := x, odd := true }

/-- `end`. -/
def streamEnd (st : StreamAcc) : Word16 :=
  if st.odd then add1c st.acc (word16 st.hi 0#8) else st.acc

/-- The streaming sum of a byte string, in wire order. -/
def streamSum16 (b : Bytes) : Word16 := streamEnd (b.foldl streamByte streamStart)

end Sys2Proof.Machine
end

