-- ==== Sys2Proof/Machine/Operands.lean ====
section
/-! DEFINITION. The operand forms of the engine: buffer access (20_memory.md R61), the packet a message is framed in
(41_codec.md R150) and the fields read from a datagram (R156). -/

namespace Sys2Proof.Machine

/-! ## Buffers (20_memory.md R60, R61) -/

/-- A buffer within its size: `S.outBuf` holds at most `MAX_DGRAM` bytes (10_state.md R20). -/
def Memory.wf (c : Config) (buf : Bytes) : Bool := buf.length ≤ c.maxDgram

/-- An access of `n` bytes at `addr` that lies in the buffer. -/
def memInRange (buf : Bytes) (addr n : Nat) : Bool := addr + n ≤ buf.length

/-- `MemRead(buf, addr, n)`. No rule makes an access out of range (R61); one would give the bytes that exist (log 13). -/
def memRead (buf : Bytes) (addr n : Nat) : Bytes := (buf.drop addr).take n

/-- `MemWrite(buf, addr, n, v)` with `n = len(v)`. -/
def memWrite (buf : Bytes) (addr : Nat) (v : Bytes) : Bytes :=
  buf.take addr ++ v ++ buf.drop (addr + v.length)

/-! ## Encoder -/

/-- `L <- 12 + len(p)` as the 14-bit field; it fits on the domain of R151. -/
def totalLengthOf (p : Bytes) : BitVec 14 := BitVec.ofNat 14 (hdrLen + p.length)

/-- `Encode(p, a, s)` (R150): the checksum is taken over the packet with a zero checksum field. -/
def encodePacket (c : Config) (p : Bytes) (ackFlag seqNum : Bool) : Bytes :=
  let z := wireBytes ⟨c.magic, 0#16, totalLengthOf p, p⟩ ackFlag seqNum
  wireBytes ⟨c.magic, checksum z, totalLengthOf p, p⟩ ackFlag seqNum

/-! ## Decoder -/

/-- What `Decode` returns (R156). -/
structure Decoded where
  valid   : Bool
  sizeOk  : Bool
  csumOk  : Bool
  header  : Word16
  length  : BitVec 14
  ackFlag : Bool
  seqNum  : Bool
  payload : Bytes
deriving DecidableEq, Repr

/-- Header present and not oversize (R156, 30_encoding.md R98). -/
def sizeOk (c : Config) (b : Bytes) : Bool := hdrLen ≤ b.length && b.length ≤ c.maxDgram

/-- `H` of a datagram, 0 when it has no header (R156, R159). -/
def headerOf (b : Bytes) : Word16 := if hdrLen ≤ b.length then u16be b 10 else 0#16

/-- `Decode(b)` (R156): the magic, `L` and the ackFlag are not checked (R157). -/
def decodeDatagram (c : Config) (b : Bytes) : Decoded :=
  let h := headerOf b
  let size := sizeOk c b
  let csum := verify b
  { valid   := size && csum
    sizeOk  := size
    csumOk  := csum
    header  := h
    length  := headerLength h
    ackFlag := headerAck h
    seqNum  := headerSeq h
    payload := if size then memRead b hdrLen (b.length - hdrLen) else [] }

/-- The sender's validity test for a response (43_sender.md R212, R213). -/
def responseGood (c : Config) (d : Decoded) : Bool := d.sizeOk && (d.csumOk || !c.ackVerify)

/-! ## What a port can carry (30_encoding.md R101: the operand limits apply at every port) -/

/-- The byte string offered on a port, if a transfer can carry it: `P_len` has 16 bits (R102). -/
def carried (o : Option Bytes) : Option Bytes := o.filter operandOk

/-- The codec request offered, if a transfer can carry it. -/
def carriedRequest (o : Option CodecReq) : Option CodecReq := o.filter fun q => operandOk q.data

/-- Every offer is one that a transfer can carry. -/
def Ports.wf (p : Ports) : Bool :=
  p.sRx.all operandOk && p.rRx.all operandOk && p.sMsg.all operandOk && p.cReq.all fun q => operandOk q.data

/-! ## Requests on the codec port (30_encoding.md R113) -/

/-- `c_op` in code order; `c_flags` is read by `C_ENCODE` only. -/
def CodecReq.instr (q : CodecReq) : Instr :=
  match q.op.toNat with
  | 0 => .cCsum q.data
  | 1 => .cVerify q.data
  | 2 => .cEncode (q.flags.getLsbD 1) (q.flags.getLsbD 0) q.data
  | _ => .cDecode q.data

end Sys2Proof.Machine
end

