-- ==== Sys2Proof/Machine/Flags.lean ====
section
/-! DEFINITION. What is computed from the state and stored nowhere: the codes of the status fields, the register map
(10_state.md R36 to R49), the level and pulse outputs (R55, 60_exceptions.md R282), and the saturating and wrapping
counters. -/

namespace Sys2Proof.Machine

/-! ## Codes -/

/-- The encoding of `S.state` (R21). -/
def SState.code : SState → BitVec 2
  | .ready => 0b00#2
  | .waitAck => 0b01#2
  | .fatal => 0b10#2

/-- The sender's column of 60_exceptions.md R271. -/
def SCause.code : SCause → BitVec 4
  | .none => 0#4
  | .corrupt => 1#4
  | .timeout => 2#4
  | .staleAck => 3#4
  | .fatal => 4#4
  | .tooLong => 5#4
  | .confirmed => 6#4
  | .sent => 7#4

/-- The receiver's column of R271. -/
def RCause.code : RCause → BitVec 4
  | .none => 0#4
  | .corrupt => 1#4
  | .duplicate => 3#4
  | .fatal => 4#4
  | .accepted => 6#4

/-- The receiver's control state (R29). -/
def Receiver.control (r : Receiver) : RState :=
  if r.fatal then .fatal else if r.expSeq then .waitForOdd else .waitForEven

/-! ## Counters -/

/-- `sat16(v + 1)` (00_scope.md R11, 43_sender.md R219). -/
def satInc (v : Word16) : Word16 := if v = 0xFFFF#16 then v else v + 1#16

/-- `wrap32(v + 1)` (R32). -/
def wrapInc (v : Word32) : Word32 := v + 1#32

/-! ## Status registers -/

/-- `ID` (R39). -/
def regId : Word32 := 0x52445433#32

/-- `S_STATUS` (R38, R40). -/
def regSStatus (s : State) : Word32 :=
  0#24 ++ s.S.last.code ++ BitVec.ofBool s.S.timerArmed ++ BitVec.ofBool s.S.curSeq ++ s.S.state.code

/-- `S_RETX` (R41). -/
def regSRetx (s : State) : Word32 := 0#16 ++ s.S.retx

/-- `S_TIMER` (R42). -/
def regSTimer (s : State) : Word32 := 0#2 ++ s.S.outLen ++ s.S.timerCnt

/-- `R_STATUS` (R38, R43). -/
def regRStatus (s : State) : Word32 :=
  0#24 ++ s.R.last.code ++ 0#1 ++ BitVec.ofBool s.R.fatal ++ BitVec.ofBool s.R.lastAck ++ BitVec.ofBool s.R.expSeq

/-- `CFG` (R47). -/
def regCfg (s : State) : Word32 :=
  0#1 ++ BitVec.ofBool s.cfg.ackVerify ++ BitVec.ofNat 14 s.cfg.maxPayload.val ++ s.cfg.timeoutTicks

/-- `MAGIC_HI` (R48). -/
def regMagicHi (s : State) : Word32 := s.cfg.magic.b0 ++ s.cfg.magic.b1 ++ s.cfg.magic.b2 ++ s.cfg.magic.b3

/-- `MAGIC_LO` (R49). -/
def regMagicLo (s : State) : Word32 := s.cfg.magic.b4 ++ s.cfg.magic.b5 ++ s.cfg.magic.b6 ++ s.cfg.magic.b7

/-- `Reg(a)` (R37): the map of the register port; 0xB to 0xF read 0 (44_host.md R251). -/
def readReg (s : State) (a : BitVec 4) : Word32 :=
  match a.toNat with
  | 0x0 => regId
  | 0x1 => regSStatus s
  | 0x2 => regSRetx s
  | 0x3 => regSTimer s
  | 0x4 => regRStatus s
  | 0x5 => s.R.cntAccept
  | 0x6 => s.R.cntCorrupt
  | 0x7 => s.R.cntDup
  | 0x8 => regCfg s
  | 0x9 => regMagicHi s
  | 0xA => regMagicLo s
  | _ => 0#32

/-! ## Outputs -/

/-- `s_msg_ready` (R55, 30_encoding.md R105). -/
def sMsgReady (s : State) : Bool := s.S.state == .ready

/-- `s_fatal` (R55). -/
def sFatal (s : State) : Bool := s.S.state == .fatal

/-- `s_rx_ready` (R55): the sender always takes a datagram. -/
def sRxReady (_ : State) : Bool := true

/-- `r_rx_ready` (R55), while no receiver transaction is in progress (30_encoding.md R105). -/
def rRxReady (s : State) : Bool := !s.R.fatal && s.rBusy.isNone

/-- The payload that `r_dlv` offers: that of a transaction which waits for the application
(70_reset_and_hazards.md R311). -/
def rDlvOffered (s : State) : Option Bytes := s.rBusy

/-- `r_fatal` (R55). -/
def rFatal (s : State) : Bool := s.R.fatal

/-- `c_req_ready`, between transactions (30_encoding.md R105). -/
def cReqReady (_ : State) : Bool := true

/-- The output events of the record applied last, in their order (44_host.md R257). -/
def lastEvents (s : State) : List Event :=
  (s.log.filter fun e => e.1 + 1 == s.recNo).map (·.2)

/-- The pulse `s_done` (20_memory.md R74). -/
def sDonePulse (s : State) : Bool := (lastEvents s).contains .sDone

/-- The pulse `s_msg_err` (20_memory.md R74). -/
def sMsgErrPulse (s : State) : Bool := (lastEvents s).contains .sMsgErr

end Sys2Proof.Machine
end

