-- ==== Sys2Proof/Machine/Ops.lean ====
section
/-! DEFINITION. The named operations the transactions share: output events, `Transmit`, `Deliver` (20_memory.md R70,
R73, R74), the timer (10_state.md R24), the fatal entry (60_exceptions.md R276) and reset, its only exit
(70_reset_and_hazards.md R300). -/

namespace Sys2Proof.Machine

/-- Records an output event, tagged with the record that causes it (R74, 44_host.md R257). -/
def emit (e : Event) (s : State) : State := { s with log := s.log ++ [(s.recNo, e)] }

/-- `Deliver(p)` (R73), once the application takes the payload (70_reset_and_hazards.md R311). -/
def deliver (p : Bytes) (s : State) : State := emit (.rDlv p) s

/-- `Transmit(port, b)` on the port of agent `a` (R70). The transport's answer is `err` exactly when the flag of R253
or R254 is pending, and the transmission consumes it (log 4). -/
def transmit : Agent → Bytes → State → Answer × State
  | .sender, b, s => (if s.failS then .err else .ok, { emit (.sTx b) s with failS := false })
  | .receiver, b, s => (if s.failR then .err else .ok, { emit (.rTx b) s with failR := false })

/-- Arming the timer (10_state.md R24). -/
def Sender.arm (x : Sender) : Sender := { x with timerArmed := true, timerCnt := 0#16 }

/-- Disarming the timer (R24). -/
def Sender.disarm (x : Sender) : Sender := { x with timerArmed := false, timerCnt := 0#16 }

/-- `raise Fatal(A)` (60_exceptions.md R276), with its event `fatal(A)`. Every other field keeps its value. -/
def raiseFatal : Agent → State → State
  | .sender, s =>
    emit (.fatal .sender) { s with S := { s.S.disarm with state := .fatal, last := .fatal } }
  | .receiver, s =>
    emit (.fatal .receiver) { s with R := { s.R with fatal := true, last := .fatal } }

/-- Reset (70_reset_and_hazards.md R300): every element of R20 and R28 at its value of R52, the trace flags cleared,
no output, and a receiver transaction in progress aborted with no effect. It is the only return from FATAL
(60_exceptions.md R277). Parameters, port offers, the trace and the observation made so far are not the block's state and
stay (log 20). -/
def resetEngines (s : State) : State :=
  { s with
    S := Sender.reset (resetOutBuf s.cfg s.draws)
    R := Receiver.reset
    failS := false
    failR := false
    rBusy := none
    traceWaits := false
    draws := s.draws + 1 }

/-- `Retransmit()` (43_sender.md R219). -/
def retransmit (s : State) : State :=
  let s1 := { s with S := { s.S with retx := satInc s.S.retx } }
  match transmit .sender s1.S.outBuf s1 with
  | (.err, s2) => raiseFatal .sender s2
  | (.ok, s2) => { s2 with S := { s2.S.arm with last := .timeout } }

/-- Responds on the codec port `c_rsp`. -/
def respondCodec (b : Bytes) (s : State) : State := emit (.cRsp b) s

end Sys2Proof.Machine
end

