-- ==== Sys2Proof/Machine/Codec.lean ====
section
/-! DEFINITION. The codec port's transactions (40_checksum.md R140, R141; 41_codec.md R160, R161). They write no
state; the response is an output event. -/

namespace Sys2Proof.Machine

/-- The response of `C_CSUM` (R140). -/
def csumResponse (b : Bytes) : Bytes := be16 (sum16 b) ++ be16 (checksum b)

/-- The response of `C_VERIFY` (R141). -/
def verifyResponse (b : Bytes) : Bytes := [if verify b then 0x01#8 else 0x00#8]

/-- The response of `C_ENCODE` (R160): too long is a result, not a fault. -/
def encodeResponse (c : Config) (ackFlag seqNum : Bool) (p : Bytes) : Bytes :=
  if c.maxPayload.val < p.length then [0x01#8] else 0x00#8 :: encodePacket c p ackFlag seqNum

/-- The status byte of `C_DECODE` (R161). -/
def decodeStatus (d : Decoded) : Byte :=
  0#5 ++ BitVec.ofBool d.valid ++ BitVec.ofBool d.sizeOk ++ BitVec.ofBool d.csumOk

/-- The response of `C_DECODE` (R161). -/
def decodeResponse (c : Config) (b : Bytes) : Bytes :=
  let d := decodeDatagram c b
  decodeStatus d :: (be16 d.header ++ d.payload)

/-- `C_CSUM` (R140). -/
def execCCsum (b : Bytes) (s : State) : Host.Outcome State Fault Refusal :=
  .next (respondCodec (csumResponse b) s)

/-- `C_VERIFY` (R141). -/
def execCVerify (b : Bytes) (s : State) : Host.Outcome State Fault Refusal :=
  .next (respondCodec (verifyResponse b) s)

/-- `C_ENCODE` (R160). -/
def execCEncode (ackFlag seqNum : Bool) (p : Bytes) (s : State) : Host.Outcome State Fault Refusal :=
  .next (respondCodec (encodeResponse s.cfg ackFlag seqNum p) s)

/-- `C_DECODE` (R161). -/
def execCDecode (b : Bytes) (s : State) : Host.Outcome State Fault Refusal :=
  .next (respondCodec (decodeResponse s.cfg b) s)

end Sys2Proof.Machine
end

