-- ==== Sys2Proof/Machine/HostPort.lean ====
section
/-! DEFINITION. The register read, the two trace directives (44_host.md R250, R253, R254) and reset
(70_reset_and_hazards.md R300). -/

namespace Sys2Proof.Machine

/-- `H_READ` (R250): one register, no side effect. -/
def execHRead (a : BitVec 4) (s : State) : Host.Outcome State Fault Refusal :=
  .next (emit (.hRdata (readReg s a)) s)

/-- `S_TXFAIL` (R253): the next `Transmit` on `s_tx` answers `err`. -/
def execSTxFail (s : State) : Host.Outcome State Fault Refusal := .next { s with failS := true }

/-- `R_TXFAIL` (R254): the next `Transmit` on `r_tx` answers `err`. -/
def execRTxFail (s : State) : Host.Outcome State Fault Refusal := .next { s with failR := true }

/-- `RST` (R300). -/
def execRst (s : State) : Host.Outcome State Fault Refusal := .next (resetEngines s)

end Sys2Proof.Machine
end

