-- ==== Sys2Proof/Machine/ReceiverFsm.lean ====
section
/-! DEFINITION. The receiver's transaction (42_receiver.md): R_DGRAM, and the packets it consumes. -/

namespace Sys2Proof.Machine

/-- Branch 1 of R180, corrupted (R182). -/
def receiveCorrupt (s : State) : State :=
  { s with R := { s.R with cntCorrupt := wrapInc s.R.cntCorrupt, last := .corrupt } }

/-- Branch 2 of R180, out of order or duplicate (R183). -/
def receiveDuplicate (s : State) : State :=
  { s with R := { s.R with cntDup := wrapInc s.R.cntDup, last := .duplicate } }

/-- Branch 3 of R180, accept (R184): the delivery comes first. -/
def receiveAccept (seq : Bool) (payload : Bytes) (s : State) : State :=
  let s1 := deliver payload s
  { s1 with R := { s1.R with
      lastAck := seq, expSeq := !s1.R.expSeq, cntAccept := wrapInc s1.R.cntAccept, last := .accepted } }

/-- The one ack of every branch (R185); a failed transmission enters FATAL with the branch's updates kept (R188). -/
def sendAck (ackSeq : Bool) (s : State) : State :=
  match transmit .receiver (encodePacket s.cfg [] true ackSeq) s with
  | (.err, s2) => raiseFatal .receiver s2
  | (.ok, s2) => s2

/-- The accept branch when the application takes the payload: delivery, the branch's writes, the ack for the seqNum
accepted, which is `R.expSeq` as the branch finds it (R180, R184). -/
def completeAccept (payload : Bytes) (s : State) : State :=
  sendAck s.R.expSeq (receiveAccept s.R.expSeq payload s)

/-- The accept branch. It does not complete until the application takes the payload (70_reset_and_hazards.md R311): while it
does not, the transaction is in progress, with the payload offered on `r_dlv` and nothing else done (log 26). -/
def acceptDatagram (payload : Bytes) (s : State) : State :=
  if s.ports.rDlvReady then completeAccept payload s else { s with rBusy := some payload }

/-- The body of `R_DGRAM(d)` (R180). -/
def receiveDatagram (d : Bytes) (s : State) : State :=
  let r := decodeDatagram s.cfg d
  if r.valid = false then sendAck s.R.lastAck (receiveCorrupt s)
  else if r.seqNum ≠ s.R.expSeq then sendAck r.seqNum (receiveDuplicate s)
  else acceptDatagram r.payload s

/-- Whether a datagram's accept branch waits: it is the next in order, and the application does not take its payload
now (R311). -/
def acceptWaits (d : Bytes) (s : State) : Bool :=
  let r := decodeDatagram s.cfg d
  r.valid && r.seqNum == s.R.expSeq && !s.ports.rDlvReady

/-- A datagram on `r_rx`: held while `r_rx_ready` is low (in FATAL, R181; while a transaction is in progress,
30_encoding.md R105), with nothing changed (log 6); else handled. -/
def receiverDatagram (d : Bytes) (s : State) : State :=
  if rRxReady s then receiveDatagram d s else s

/-- `R_DGRAM` (R180). -/
def execRDgram (d : Bytes) (s : State) : Host.Outcome State Fault Refusal := .next (receiverDatagram d s)

/-- A packet of class `DATA_SEQ0`, consumed by the receiver (30_encoding.md R94, R180). -/
def execDataSeq0 (p : Packet) (s : State) : Host.Outcome State Fault Refusal :=
  .next (receiverDatagram (wireBytes p false false) s)

/-- A packet of class `DATA_SEQ1`, consumed by the receiver (R94, R180). -/
def execDataSeq1 (p : Packet) (s : State) : Host.Outcome State Fault Refusal :=
  .next (receiverDatagram (wireBytes p false true) s)

end Sys2Proof.Machine
end

