-- ==== Sys2Proof/Machine/SenderFsm.lean ====
section
/-! DEFINITION. The sender's transactions (43_sender.md): S_SEND, S_RESP, S_TICK, and the packets it consumes. -/

namespace Sys2Proof.Machine

/-- The body of `S_SEND(m)` in READY (R210). -/
def sendMessage (m : Bytes) (s : State) : State :=
  if s.cfg.maxPayload.val < m.length then
    let s1 := emit .sMsgErr s
    { s1 with S := { s1.S with last := .tooLong } }
  else
    let q := encodePacket s.cfg m false s.S.curSeq
    let s1 := { s with S := { s.S with outBuf := q, outLen := BitVec.ofNat 14 q.length, retx := 0#16 } }
    match transmit .sender q s1 with
    | (.err, s2) => raiseFatal .sender s2
    | (.ok, s2) => { s2 with S := { s2.S.arm with state := .waitAck, last := .sent } }

/-- The body of `S_RESP(d)` in WAIT_ACK (R212): confirm (R214), or rearm (R215). -/
def handleResponse (d : Bytes) (s : State) : State :=
  let r := decodeDatagram s.cfg d
  let good := responseGood s.cfg r
  if good && r.seqNum == s.S.curSeq then
    emit .sDone { s with S := { s.S.disarm with curSeq := !s.S.curSeq, state := .ready, last := .confirmed } }
  else
    { s with S := { s.S.arm with last := if good then .staleAck else .corrupt } }

/-- A datagram on `s_rx`: outside WAIT_ACK it is discarded (R216). -/
def senderDatagram (d : Bytes) (s : State) : State :=
  if s.S.state = .waitAck then handleResponse d s else s

/-- One tick (R218). -/
def senderTick (s : State) : State :=
  if s.S.state = .waitAck ∧ s.S.timerArmed = true then
    let s1 := { s with S := { s.S with timerCnt := s.S.timerCnt + 1#16 } }
    if s1.S.timerCnt = s1.cfg.timeoutTicks then retransmit s1 else s1
  else s

/-- `S_SEND` (R210): outside READY the message is held and nothing changes (R211; log 6). -/
def execSSend (m : Bytes) (s : State) : Host.Outcome State Fault Refusal :=
  .next (if s.S.state = .ready then sendMessage m s else s)

/-- `S_RESP` (R212). -/
def execSResp (d : Bytes) (s : State) : Host.Outcome State Fault Refusal := .next (senderDatagram d s)

/-- `S_TICK` (R218). -/
def execSTick (s : State) : Host.Outcome State Fault Refusal := .next (senderTick s)

/-- A packet of class `ACK_SEQ0`, consumed by the sender (30_encoding.md R94, R212). -/
def execAckSeq0 (p : Packet) (s : State) : Host.Outcome State Fault Refusal :=
  .next (senderDatagram (wireBytes p true false) s)

/-- A packet of class `ACK_SEQ1`, consumed by the sender (R94, R212). -/
def execAckSeq1 (p : Packet) (s : State) : Host.Outcome State Fault Refusal :=
  .next (senderDatagram (wireBytes p true true) s)

end Sys2Proof.Machine
end

