-- ==== Sys2Proof/Machine/Dispatch.lean ====
section
/-! DEFINITION. The dispatch: one arm per row of spec/opcode_table.json. -/

namespace Sys2Proof.Machine

/-- The effect of one instruction on the engine; what `step` adds around it stands in Machine/Fetch.lean. -/
def exec (i : Instr) (s : State) : Host.Outcome State Fault Refusal :=
  match i with
  | .dataSeq0 p => Sys2Proof.Machine.execDataSeq0 p s
  | .dataSeq1 p => Sys2Proof.Machine.execDataSeq1 p s
  | .ackSeq0 p => Sys2Proof.Machine.execAckSeq0 p s
  | .ackSeq1 p => Sys2Proof.Machine.execAckSeq1 p s
  | .sSend m => Sys2Proof.Machine.execSSend m s
  | .sResp d => Sys2Proof.Machine.execSResp d s
  | .sTick => Sys2Proof.Machine.execSTick s
  | .rDgram d => Sys2Proof.Machine.execRDgram d s
  | .cCsum b => Sys2Proof.Machine.execCCsum b s
  | .cVerify b => Sys2Proof.Machine.execCVerify b s
  | .cEncode a q p => Sys2Proof.Machine.execCEncode a q p s
  | .cDecode b => Sys2Proof.Machine.execCDecode b s
  | .hRead a => Sys2Proof.Machine.execHRead a s
  | .sTxFail => Sys2Proof.Machine.execSTxFail s
  | .rTxFail => Sys2Proof.Machine.execRTxFail s
  | .rst => Sys2Proof.Machine.execRst s

end Sys2Proof.Machine
end

