-- ==== Sys2Proof/Machine/Fetch.lean ====
section
/-! DEFINITION. Which transaction a step performs: the held transactions (00_scope.md R10), the priority of the port
offers (60_exceptions.md R280), the receiver transaction that waits for the application (70_reset_and_hazards.md R311), the next
trace record (44_host.md R256), and what a step adds around `exec`. -/

namespace Sys2Proof.Machine

/-- Whether the instruction is held in this state: one whose port's ready signal is low (00_scope.md R10). A message
outside READY (43_sender.md R211), a receiver datagram in FATAL or while a receiver transaction is in progress
(42_receiver.md R181, 93_implementation_defined.md I18). -/
def held : Instr → State → Bool
  | .dataSeq0 _, s => !rRxReady s
  | .dataSeq1 _, s => !rRxReady s
  | .ackSeq0 _, _ => false
  | .ackSeq1 _, _ => false
  | .sSend _, s => !sMsgReady s
  | .sResp _, _ => false
  | .sTick, _ => false
  | .rDgram _, s => !rRxReady s
  | .cCsum _, _ => false
  | .cVerify _, _ => false
  | .cEncode _ _ _, _ => false
  | .cDecode _, _ => false
  | .hRead _, _ => false
  | .sTxFail, _ => false
  | .rTxFail, _ => false
  | .rst, _ => false

/-- The datagram that the instruction gives to the receiver (30_encoding.md R94). -/
def receiverBytes : Instr → Option Bytes
  | .dataSeq0 p => some (wireBytes p false false)
  | .dataSeq1 p => some (wireBytes p false true)
  | .ackSeq0 _ => none
  | .ackSeq1 _ => none
  | .sSend _ => none
  | .sResp _ => none
  | .sTick => none
  | .rDgram d => some d
  | .cCsum _ => none
  | .cVerify _ => none
  | .cEncode _ _ _ => none
  | .cDecode _ => none
  | .hRead _ => none
  | .sTxFail => none
  | .rTxFail => none
  | .rst => none

/-- Whether the instruction is taken but does not complete now: a receiver datagram whose accept branch waits for the
application (70_reset_and_hazards.md R311). -/
def waits (i : Instr) (s : State) : Bool := rRxReady s && (receiverBytes i).any (acceptWaits · s)

/-- The instruction a datagram on `s_rx` is: its packet class if it is one the sender consumes, else `S_RESP` of its
bytes, which any datagram is (30_encoding.md R94, 20_memory.md R72). -/
def senderInstr (d : Bytes) : Instr :=
  match decodeWire d with
  | .ok (.ackSeq0 p) => .ackSeq0 p
  | .ok (.ackSeq1 p) => .ackSeq1 p
  | _ => .sResp d

/-- The instruction a datagram on `r_rx` is: its packet class if it is one the receiver consumes, else `R_DGRAM`. -/
def receiverInstr (d : Bytes) : Instr :=
  match decodeWire d with
  | .ok (.dataSeq0 p) => .dataSeq0 p
  | .ok (.dataSeq1 p) => .dataSeq1 p
  | _ => .rDgram d

/-- What a step finds to do. -/
inductive Fetched where
  /-- Nothing can be taken and the trace has ended (44_host.md R258, 60_exceptions.md R289). -/
  | idle
  /-- The next trace record is held, or the last one taken waits for the application: the trace is stuck (44_host.md R256,
  93_implementation_defined.md I24). -/
  | stuck
  /-- The next trace record spells no transaction (30_encoding.md R112). -/
  | refuse (e : DecodeError)
  /-- Begin `i` in `s`, which no longer holds what was taken: it completes later (70_reset_and_hazards.md R311). -/
  | start (i : Instr) (s : State)
  /-- Complete the transaction in progress, of which `s` is free, with the delivery of `p`. -/
  | deliver (p : Bytes) (s : State)
  /-- Run `i` in `s`, which no longer holds what was taken. -/
  | run (i : Instr) (s : State)

/-- The payload of the transaction in progress, when the application takes it. -/
def rDlvTaken (s : State) : Option Bytes := if s.ports.rDlvReady then s.rBusy else none

/-- An offered receiver datagram, when `r_rx_ready` (30_encoding.md R105). -/
def rRxTaken (s : State) : Option Bytes := if rRxReady s then carried s.ports.rRx else none

/-- An offered message, when `s_msg_ready` (R105). -/
def sMsgTaken (s : State) : Option Bytes := if sMsgReady s then carried s.ports.sMsg else none

/-- `i` is taken in `s`, which no longer holds it: it begins and waits, or runs. -/
def take (i : Instr) (s : State) : Fetched := if waits i s then .start i s else .run i s

/-- What a step takes from the ports: reset; the receiver transaction in progress, when its payload is taken; then
inbound datagrams, `tick`, a message (60_exceptions.md R280), then the codec and register ports, which R280 leaves
unordered (log 10). An offer whose port is not ready, or that no transfer can carry (R101), stays where it is and lets
the others pass. -/
def offered (s : State) : Option Fetched :=
  if s.ports.rst then some (.run .rst { s with ports := { s.ports with rst := false } })
  else match rDlvTaken s with
  | some p => some (.deliver p { s with rBusy := none, traceWaits := false })
  | none =>
  match carried s.ports.sRx with
  | some d => some (.run (senderInstr d) { s with ports := { s.ports with sRx := none } })
  | none =>
  match rRxTaken s with
  | some d => some (take (receiverInstr d) { s with ports := { s.ports with rRx := none } })
  | none =>
  if s.ports.tick then some (.run .sTick { s with ports := { s.ports with tick := false } })
  else match sMsgTaken s with
  | some m => some (.run (.sSend m) { s with ports := { s.ports with sMsg := none } })
  | none =>
  match carriedRequest s.ports.cReq with
  | some q => some (.run q.instr { s with ports := { s.ports with cReq := none } })
  | none =>
  match s.ports.hRd with
  | some a => some (.run (.hRead a) { s with ports := { s.ports with hRd := none } })
  | none => none

/-- The next record of the trace, unless the last one taken is still in progress: records are applied one at a time
(44_host.md R256). -/
def fetchTrace (s : State) : Fetched :=
  if s.traceWaits then .stuck
  else match s.trace with
  | [] => .idle
  | x :: xs =>
    match decode .trace (x :: xs) with
    | .error e => .refuse e
    | .ok (i, rest) =>
      if held i s then .stuck
      else if waits i s then .start i { s with trace := rest, traceWaits := true }
      else .run i { s with trace := rest }

/-- A port offer first, then the trace (log 10). -/
def fetch (s : State) : Fetched :=
  match offered s with
  | some f => f
  | none => fetchTrace s

/-- What a step adds after `exec`: one more record is applied. -/
def finish (s : State) : State := { s with recNo := s.recNo + 1 }

/-- `finish` on the next state of an outcome. -/
def complete : Host.Outcome State Fault Refusal → Host.Outcome State Fault Refusal
  | .next s => .next (finish s)
  | .fault r => .fault r
  | .refused r => .refused r

/-- The bytes of the one record a table word spells, without the padding after it. -/
def placedRecord (b : Bytes) : Bytes :=
  match decode .trace b with
  | .ok (_, rest) => b.take (b.length - rest.length)
  | .error _ => b

/-- Offers a datagram to the engine that consumes its class (30_encoding.md R94) and nothing else. -/
def placedPacket (d : Bytes) : Ports :=
  if headerAck (headerOf d) then { Ports.idle with sRx := some d } else { Ports.idle with rRx := some d }

/-- Places a table word where `step` takes its next instruction from: a packet on its port, a record as the trace. -/
def placeWord (s : State) (nbits w : Nat) : State :=
  match tableChannel nbits with
  | .wire => { s with rBusy := none, traceWaits := false, ports := placedPacket (tableWord nbits w), trace := [] }
  | .trace =>
    { s with rBusy := none, traceWaits := false, ports := Ports.idle, trace := placedRecord (tableWord nbits w) }

end Sys2Proof.Machine
end

