-- ==== Sys2Proof/Machine/Step.lean ====
section
/-! DEFINITION. One step: one transaction, directive or reset (00_scope.md R9, 44_host.md R256). -/

namespace Sys2Proof.Machine

/-- Takes a port offer or the next trace record and performs it. A held record changes nothing (R10), and so does a
step with nothing offered (60_exceptions.md R289). A datagram whose accept branch waits begins its transaction, which
completes, and is counted as applied, when the application takes the payload (70_reset_and_hazards.md R311). -/
def step (s : State) : Host.Outcome State Fault Refusal :=
  match fetch s with
  | .idle => .next s
  | .stuck => .next s
  | .start i t => exec i t
  | .deliver p t => .next (finish (completeAccept p t))
  | .refuse e => .refused (.spellsNoTransaction e)
  | .run i t => complete (exec i t)

/-- `s` with a table word placed where `step` takes its next instruction (log 8, log 16). -/
def State.withFetchWord (s : State) (nbits w : Nat) : State := placeWord s nbits w

end Sys2Proof.Machine
end

