-- ==== Sys2Proof/Machine/PortBeats.lean ====
section
/-! DEFINITION. The framing of a byte-string port (30_encoding.md R103): how a transaction's bytes cross a port, beat by
beat. It is below the level of a step (00_scope.md R9), and no step depends on it (70_reset_and_hazards.md R318). -/

namespace Sys2Proof.Machine

/-- One beat of a byte-string port: the header beat (`P_hdr = 1`, `P_len`) or a data beat (`P_hdr = 0`, `P_data`). -/
inductive Beat where
  | header (len : Word16)
  | data (x : Byte)
deriving DecidableEq, Repr

/-- The transfer of `b`: one header beat, then its bytes in wire order. -/
def beats (b : Bytes) : List Beat := .header (BitVec.ofNat 16 b.length) :: b.map .data

/-- Takes `n` data beats off a port; none where the beats end, or where one is not a data beat. -/
def takeData : Nat → List Beat → Option (Bytes × List Beat)
  | 0, bs => some ([], bs)
  | n + 1, .data x :: bs =>
    match takeData n bs with
    | some (v, rest) => some (x :: v, rest)
    | none => none
  | _ + 1, _ => none

/-- The byte string of the first transfer on a port, and the beats after it; none while it is incomplete. Beats that
break the framing (a data beat where a header beat is due, a header beat inside a transfer) are no transfer either
(DESIGN CHOICE, log 27). -/
def takeTransfer : List Beat → Option (Bytes × List Beat)
  | .header n :: bs => takeData n.toNat bs
  | _ => none

end Sys2Proof.Machine
end

