-- ==== Sys2Proof/Machine/Trace.lean ====
section
/-! DEFINITION. The meaning of a whole trace (44_host.md R256 to R258) and of the pseudo-records (30_encoding.md R108).
-/

namespace Sys2Proof.Machine

/-- How a trace ends: applied to its last record, stuck at a held record (no end state), or refused (R256). A stuck trace
keeps no observation here: R257 takes the end state as part of it, and does not say whether the events so far still count
(DESIGN CHOICE, log 28). -/
inductive TraceResult where
  | ended (s : State)
  | stuck
  | refused (r : Refusal)
deriving DecidableEq, Repr

/-- Applies records one at a time, in order; a record that is held, or whose accept branch waits for an application that
does not take the payload, makes the trace stuck (93_implementation_defined.md I18, I24). The records are those of a trace, within the operand limits
(30_encoding.md R101): `decodeTrace` gives no others, and `runLines` lets no others through. -/
def runRecords : List Instr → State → TraceResult
  | [], s => .ended s
  | i :: is, s =>
    if held i s || waits i s then .stuck
    else match exec i s with
      | .next t => runRecords is (finish t)
      | .refused r => .refused r
      | .fault f => nomatch f

/-- A trace in its binary form: one record that spells no transaction refuses the whole trace (R256). -/
def runTrace (b : Bytes) (s : State) : TraceResult :=
  match decodeTrace b with
  | .ok is => runRecords is s
  | .error e => .refused (.spellsNoTransaction e)

/-- The output events that a run from `s` to `t` adds, each with its record (R257). -/
def observation (s t : State) : List (Nat × Event) := t.log.drop s.log.length

/-! ## Pseudo-records (R108) -/

/-- A line of a trace: a record, or a pseudo-record. -/
inductive Line where
  | record (i : Instr)
  | ticks (n : Nat)
  | fwdS
  | fwdR
  | drop
deriving DecidableEq, Repr

/-- The most recent datagram the sender transmitted. -/
def lastSTx : List (Nat × Event) → Option Bytes
  | [] => none
  | (_, .sTx d) :: es => (lastSTx es).or (some d)
  | _ :: es => lastSTx es

/-- The most recent datagram the receiver transmitted. -/
def lastRTx : List (Nat × Event) → Option Bytes
  | [] => none
  | (_, .rTx d) :: es => (lastRTx es).or (some d)
  | _ :: es => lastRTx es

/-- The expansion of a line at the point of the trace where it stands. `FWD_S` and `FWD_R` need an earlier
transmission, and `TICKS n` needs `n ≥ 1`; without, a line has no expansion (log 18). -/
def expandLine (s : State) : Line → Option (List Instr)
  | .record i => some [i]
  | .ticks 0 => none
  | .ticks (n + 1) => some (List.replicate (n + 1) .sTick)
  | .fwdS => (lastSTx s.log).map fun d => [.rDgram d]
  | .fwdR => (lastRTx s.log).map fun d => [.sResp d]
  | .drop => some []

/-- Whether an instruction is a trace record within the operand limits, which hold in every trace (R101, R110). -/
def traceRecord (i : Instr) : Bool := i.channel == .trace && i.wf

/-- Applies lines one at a time; none for a line without an expansion (log 18), or with one that is no trace record
within the limits (log 24). -/
def runLines : List Line → State → Option TraceResult
  | [], s => some (.ended s)
  | l :: ls, s =>
    match expandLine s l with
    | none => none
    | some is =>
      if is.all traceRecord then
        match runRecords is s with
        | .ended t => runLines ls t
        | .stuck => some .stuck
        | .refused r => some (.refused r)
      else none

end Sys2Proof.Machine
end

