-- ==== Sys2Proof/Machine/TraceText.lean ====
section
/-! DEFINITION. The textual form of trace records (30_encoding.md R107), as lists of characters: how a line is read and
how a record is written. -/

namespace Sys2Proof.Machine

/-- The value of a hex digit, in either case. -/
def hexValue (c : Char) : Option Nat :=
  let n := c.toNat
  if 48 ≤ n ∧ n ≤ 57 then some (n - 48)
  else if 97 ≤ n ∧ n ≤ 102 then some (n - 87)
  else if 65 ≤ n ∧ n ≤ 70 then some (n - 55)
  else none

/-- The hex digit of a value below 16. -/
def hexDigit (n : Nat) : Char := if n < 10 then Char.ofNat (48 + n) else Char.ofNat (87 + n)

/-- An even number of hex digits. -/
def readHex : List Char → Option Bytes
  | [] => some []
  | [_] => none
  | a :: b :: cs =>
    match hexValue a, hexValue b, readHex cs with
    | some x, some y, some v => some (BitVec.ofNat 8 (16 * x + y) :: v)
    | _, _, _ => none

/-- Bytes as hex digits. -/
def writeHex : Bytes → List Char
  | [] => []
  | x :: v => hexDigit (x.toNat / 16) :: hexDigit (x.toNat % 16) :: writeHex v

/-- The double quote. -/
def quoteChar : Char := Char.ofNat 34

/-- ASCII text up to the closing double quote, which ends the operand; no escapes. -/
def readText : List Char → Option Bytes
  | [] => none
  | [c] => if c = quoteChar then some [] else none
  | c :: d :: cs =>
    if c.toNat < 128 ∧ c ≠ quoteChar then
      match readText (d :: cs) with
      | some v => some (BitVec.ofNat 8 c.toNat :: v)
      | none => none
    else none

/-- `<bytes>`: text in double quotes, or `x:` and hex digits. -/
def readBytes : List Char → Option Bytes
  | 'x' :: ':' :: cs => readHex cs
  | c :: cs => if c = quoteChar then readText cs else none
  | [] => none

/-- An operand of a record: `<bytes>` within the operand limit (30_encoding.md R101, R110); a longer one is no operand
(log 24). -/
def readOperand (w : List Char) : Option Bytes := carried (readBytes w)

/-- Drops the comment that `;` starts; a `;` inside double quotes is text (log 17). -/
def dropComment : Bool → List Char → List Char
  | _, [] => []
  | inText, c :: cs =>
    if c = quoteChar then c :: dropComment (!inText) cs
    else if c = ';' ∧ inText = false then []
    else c :: dropComment inText cs

/-- Cuts a line into words at spaces outside double quotes; `word` is the word read so far, backwards. -/
def splitWords : Bool → List Char → List Char → List (List Char)
  | _, word, [] => if word = [] then [] else [word.reverse]
  | inText, word, c :: cs =>
    if c = ' ' ∧ inText = false then
      if word = [] then splitWords inText [] cs else word.reverse :: splitWords inText [] cs
    else splitWords (if c = quoteChar then !inText else inText) (c :: word) cs

/-- The register names of 10_state.md R37, by address. -/
def regNames : List (List Char) :=
  [ ['I', 'D'],
    ['S', '_', 'S', 'T', 'A', 'T', 'U', 'S'],
    ['S', '_', 'R', 'E', 'T', 'X'],
    ['S', '_', 'T', 'I', 'M', 'E', 'R'],
    ['R', '_', 'S', 'T', 'A', 'T', 'U', 'S'],
    ['R', '_', 'A', 'C', 'C', 'E', 'P', 'T'],
    ['R', '_', 'C', 'O', 'R', 'R', 'U', 'P', 'T'],
    ['R', '_', 'D', 'U', 'P'],
    ['C', 'F', 'G'],
    ['M', 'A', 'G', 'I', 'C', '_', 'H', 'I'],
    ['M', 'A', 'G', 'I', 'C', '_', 'L', 'O'] ]

/-- The address of a register: its name, or `0x` and one hex digit. -/
def readRegister (w : List Char) : Option (BitVec 4) :=
  match w with
  | ['0', 'x', d] => (hexValue d).map (BitVec.ofNat 4)
  | _ =>
    let k := regNames.findIdx (· == w)
    if k < regNames.length then some (BitVec.ofNat 4 k) else none

/-- A bit written `<name>=0` or `<name>=1`. -/
def readBit (name : List Char) (w : List Char) : Option Bool :=
  if w = name ++ ['=', '0'] then some false
  else if w = name ++ ['=', '1'] then some true
  else none

/-- A decimal number. -/
def readDecimal : Nat → List Char → Option Nat
  | n, [] => some n
  | n, c :: cs => if 48 ≤ c.toNat ∧ c.toNat ≤ 57 then readDecimal (10 * n + (c.toNat - 48)) cs else none

/-- The keywords of R107 and R108. -/
inductive Keyword where
  | send | sResp | tick | rDgram | csum | verify | encode | decode | read | sTxFail | rTxFail | reset
  | ticks | fwdS | fwdR | drop
deriving DecidableEq, Repr

/-- How a keyword is spelled. -/
def Keyword.spelling : Keyword → List Char
  | .send => ['S', 'E', 'N', 'D']
  | .sResp => ['S', '_', 'R', 'E', 'S', 'P']
  | .tick => ['T', 'I', 'C', 'K']
  | .rDgram => ['R', '_', 'D', 'G', 'R', 'A', 'M']
  | .csum => ['C', 'S', 'U', 'M']
  | .verify => ['V', 'E', 'R', 'I', 'F', 'Y']
  | .encode => ['E', 'N', 'C', 'O', 'D', 'E']
  | .decode => ['D', 'E', 'C', 'O', 'D', 'E']
  | .read => ['R', 'E', 'A', 'D']
  | .sTxFail => ['S', '_', 'T', 'X', 'F', 'A', 'I', 'L']
  | .rTxFail => ['R', '_', 'T', 'X', 'F', 'A', 'I', 'L']
  | .reset => ['R', 'E', 'S', 'E', 'T']
  | .ticks => ['T', 'I', 'C', 'K', 'S']
  | .fwdS => ['F', 'W', 'D', '_', 'S']
  | .fwdR => ['F', 'W', 'D', '_', 'R']
  | .drop => ['D', 'R', 'O', 'P']

/-- All keywords. -/
def allKeywords : List Keyword :=
  [.send, .sResp, .tick, .rDgram, .csum, .verify, .encode, .decode, .read, .sTxFail, .rTxFail, .reset,
   .ticks, .fwdS, .fwdR, .drop]

/-- The keyword a word is. -/
def readKeyword (w : List Char) : Option Keyword := allKeywords.find? (·.spelling == w)

/-- The line that a keyword and its operand words are (R107, R108). -/
def readWords (k : Keyword) (ws : List (List Char)) : Option Line :=
  match k, ws with
  | .send, [v] => (readOperand v).map fun b => .record (.sSend b)
  | .sResp, [v] => (readOperand v).map fun b => .record (.sResp b)
  | .tick, [] => some (.record .sTick)
  | .rDgram, [v] => (readOperand v).map fun b => .record (.rDgram b)
  | .csum, [v] => (readOperand v).map fun b => .record (.cCsum b)
  | .verify, [v] => (readOperand v).map fun b => .record (.cVerify b)
  | .encode, [a, q, v] =>
    match readBit ['a', 'c', 'k'] a, readBit ['s', 'e', 'q'] q, readOperand v with
    | some x, some y, some b => some (.record (.cEncode x y b))
    | _, _, _ => none
  | .decode, [v] => (readOperand v).map fun b => .record (.cDecode b)
  | .read, [r] => (readRegister r).map fun a => .record (.hRead a)
  | .sTxFail, [] => some (.record .sTxFail)
  | .rTxFail, [] => some (.record .rTxFail)
  | .reset, [] => some (.record .rst)
  | .ticks, [n] => if n = [] then none else (readDecimal 0 n).map .ticks
  | .fwdS, [] => some .fwdS
  | .fwdR, [] => some .fwdR
  | .drop, _ => some .drop
  | _, _ => none

/-- Reads a line: `none` inside for an empty or comment line, `none` outside for a line that is no record. -/
def readLine (cs : List Char) : Option (Option Line) :=
  match splitWords false [] (dropComment false cs) with
  | [] => some none
  | w :: ws =>
    match readKeyword w with
    | none => none
    | some k => (readWords k ws).map some

/-- `x:` and the hex digits of `b`. -/
def writeOperand (b : Bytes) : List Char := 'x' :: ':' :: writeHex b

/-- A keyword and its one operand. -/
def writeWith (k : Keyword) (v : List Char) : List Char := k.spelling ++ ' ' :: v

/-- A bit as `<name>=0` or `<name>=1`. -/
def writeBit (name : List Char) (x : Bool) : List Char := name ++ ['=', if x then '1' else '0']

/-- Writes a trace record as a line; packets on the wire have no line of their own. -/
def writeRecord : Instr → Option (List Char)
  | .dataSeq0 _ => none
  | .dataSeq1 _ => none
  | .ackSeq0 _ => none
  | .ackSeq1 _ => none
  | .sSend m => some (writeWith .send (writeOperand m))
  | .sResp d => some (writeWith .sResp (writeOperand d))
  | .sTick => some Keyword.tick.spelling
  | .rDgram d => some (writeWith .rDgram (writeOperand d))
  | .cCsum b => some (writeWith .csum (writeOperand b))
  | .cVerify b => some (writeWith .verify (writeOperand b))
  | .cEncode a q p => some (writeWith .encode
      (writeBit ['a', 'c', 'k'] a ++ ' ' :: (writeBit ['s', 'e', 'q'] q ++ ' ' :: writeOperand p)))
  | .cDecode b => some (writeWith .decode (writeOperand b))
  | .hRead a => some (writeWith .read ['0', 'x', hexDigit a.toNat])
  | .sTxFail => some Keyword.sTxFail.spelling
  | .rTxFail => some Keyword.rTxFail.spelling
  | .rst => some Keyword.reset.spelling

end Sys2Proof.Machine
end

