-- ==== Sys2Proof/Safety.lean ====
section
/-! DEFINITION. The invariants of an engine (10_state.md R27, R31) and what counts as a safe run (44_host.md R258). -/

namespace Sys2Proof.Machine

/-- The invariants of R27, for the parameters `c`. -/
structure Sender.Inv (c : Config) (x : Sender) : Prop where
  /-- `S.state = READY ⇒ S.timerArmed = 0`. -/
  readyDisarmed : x.state = .ready → x.timerArmed = false
  /-- `S.state = WAIT_ACK ⇒ S.timerArmed = 1`. -/
  waitArmed : x.state = .waitAck → x.timerArmed = true
  /-- `S.state = WAIT_ACK ⇒ S.timerCnt < TIMEOUT_TICKS`. -/
  waitCount : x.state = .waitAck → x.timerCnt < c.timeoutTicks
  /-- `S.state = WAIT_ACK ⇒ S.outLen ≥ 12`. -/
  waitHeader : x.state = .waitAck → 12 ≤ x.outLen.toNat
  /-- `S.state = WAIT_ACK ⇒ S.outBuf[11][1] = 0`: a data packet. -/
  waitData : x.state = .waitAck → (x.outBuf.getD 11 0#8).getLsbD 1 = false
  /-- `S.state = WAIT_ACK ⇒ S.outBuf[11][0] = S.curSeq`. -/
  waitSeq : x.state = .waitAck → (x.outBuf.getD 11 0#8).getLsbD 0 = x.curSeq
  /-- `S.state = WAIT_ACK ⇒ Verify(S.outBuf)`. -/
  waitVerifies : x.state = .waitAck → verify x.outBuf = true
  /-- `S.outLen = len(S.outBuf)` while the packet is outstanding (R20). -/
  waitLength : x.state = .waitAck → x.outLen.toNat = x.outBuf.length
  /-- The buffer is within its size (R20). -/
  bufferSize : Memory.wf c x.outBuf = true
  /-- In FATAL the timer is disarmed (60_exceptions.md R276). -/
  fatalDisarmed : x.state = .fatal → x.timerArmed = false
  /-- A disarmed timer is at 0 (R24). -/
  disarmedZero : x.timerArmed = false → x.timerCnt = 0#16
  /-- FATAL is the state exactly when it is the cause code (60_exceptions.md R274, R277). -/
  fatalCause : x.state = .fatal ↔ x.last = .fatal

/-- The invariant of R31, and the cause code of a fatal receiver (60_exceptions.md R274, R277). -/
structure Receiver.Inv (x : Receiver) : Prop where
  /-- `R.lastAck = not R.expSeq`. -/
  ackComplement : x.lastAck = !x.expSeq
  /-- The fatal mark and the cause code agree. -/
  fatalCause : x.fatal = true ↔ x.last = .fatal

/-- A receiver transaction in progress is an accept branch that waits: its payload is one that a valid datagram can carry,
and the receiver is not in FATAL (70_reset_and_hazards.md R311, 41_codec.md R156). -/
def busyAccepts (s : State) (p : Bytes) : Bool := p.length ≤ s.cfg.maxPayload.val && !s.R.fatal

/-- The invariant of the whole machine: legal parameters (00_scope.md R6), the two engines' invariants, offers within
the operand limits (30_encoding.md R101), what a receiver transaction in progress holds, and the tags of the observation,
which name records applied before (44_host.md R257, log 5). -/
structure State.Inv (s : State) : Prop where
  config   : s.cfg.wf = true
  sender   : s.S.Inv s.cfg
  receiver : s.R.Inv
  offers   : s.ports.wf = true
  busy     : s.rBusy.all (busyAccepts s) = true
  waiting  : s.traceWaits = true → s.rBusy ≠ none
  tags     : ∀ e ∈ s.log, e.1 < s.recNo

/-- The states an engine can be in: right after reset with any legal parameters, after a step, and after its
environment drives the ports otherwise, within the operand limits (30_encoding.md R101), or places another trace
(00_scope.md R9, 44_host.md R256). -/
inductive Reachable : State → Prop where
  | afterReset (c : Config) : c.wf = true → Reachable (State.resetWith c)
  | afterStep (s t : State) : Reachable s → step s = .next t → Reachable t
  | environment (s : State) (p : Ports) (b : Bytes) :
    p.wf = true → Reachable s → Reachable { s with ports := p, trace := b }

/-- The engines that the events name as entering FATAL, in order. -/
def fatalAgents (es : List (Nat × Event)) : List Agent :=
  es.filterMap fun e => match e.2 with
    | .fatal a => some a
    | _ => none

/-- The premise of a claim about a run from `s` to `t` that is not about the fatal path: the run has no `fatal` event
(R258, 60_exceptions.md R278), whether or not a reset came after one. -/
def noFatalEvent (s t : State) : Bool := fatalAgents (observation s t) == []

/-- No engine is in FATAL in this state, as R258 asks of a successful end. -/
def outsideFatal (s : State) : Bool := !sFatal s && !rFatal s

/-- A trace ends successfully: it is neither stuck nor refused, and no engine ends in FATAL (R258). -/
def safeEnd : TraceResult → Bool
  | .ended s => outsideFatal s
  | .stuck => false
  | .refused _ => false

/-- A trace applied from `s` ends, and no `fatal` event occurs in it. -/
def fatalFree (s : State) : TraceResult → Bool
  | .ended t => noFatalEvent s t
  | .stuck => false
  | .refused _ => false

/-- The datagrams the sender transmitted, in order. -/
def sentDatagrams (es : List (Nat × Event)) : List Bytes :=
  es.filterMap fun e => match e.2 with
    | .sTx d => some d
    | _ => none

/-- The datagrams the receiver transmitted, in order. -/
def ackDatagrams (es : List (Nat × Event)) : List Bytes :=
  es.filterMap fun e => match e.2 with
    | .rTx d => some d
    | _ => none

/-- The payloads delivered, in order. -/
def deliveries (es : List (Nat × Event)) : List Bytes :=
  es.filterMap fun e => match e.2 with
    | .rDlv p => some p
    | _ => none

end Sys2Proof.Machine
end

