-- ==== Sys2Proof/Certificates/Slice0/Obligations.lean ====
section
/-! DEFINITION. The statements for the provers. Each says which rule of spec/ it formalises; where it rests on a
convention of the model, its docstring names the log entry. -/

open Sys2Proof Sys2Proof.Machine

/-! ## Words the statements use -/

/-- The observation of `s` with the events `es` of the current record added, in order (44_host.md R257). -/
def Sys2Proof.Expected.logged (s : State) (es : List Event) : List (Nat × Event) :=
  s.log ++ es.map fun e => (s.recNo, e)

/-- The state after a receiver branch that leaves the receiver as `r` after the events `es`, sends the ack for `x` and
takes the transport's answer: with `err` the branch's updates stay and the receiver is fatal (42_receiver.md R188). -/
def Sys2Proof.Expected.acked (s : State) (r : Receiver) (es : List Event) (x : Bool) : State :=
  { s with
    R := if s.failR = true then { r with fatal := true, last := .fatal } else r
    failR := false
    log := Expected.logged s
      (es ++ [.rTx (encodePacket s.cfg [] true x)] ++ if s.failR = true then [.fatal .receiver] else []) }

/-- The three branches of 42_receiver.md R180 for a datagram with the given validity, seqNum and payload. -/
def Sys2Proof.Expected.received (s : State) (valid seq : Bool) (payload : Bytes) : State :=
  if valid = false then
    Expected.acked s { s.R with cntCorrupt := s.R.cntCorrupt + 1#32, last := .corrupt } [] s.R.lastAck
  else if seq = s.R.expSeq then
    Expected.acked s
      { s.R with lastAck := seq, expSeq := !s.R.expSeq, cntAccept := s.R.cntAccept + 1#32, last := .accepted }
      [.rDlv payload] seq
  else
    Expected.acked s { s.R with cntDup := s.R.cntDup + 1#32, last := .duplicate } [] seq

/-- The confirm branch of 43_sender.md R214. -/
def Sys2Proof.Expected.confirmed (s : State) : State :=
  { s with
    S := { s.S with
      curSeq := !s.S.curSeq, state := .ready, timerArmed := false, timerCnt := 0#16, last := .confirmed }
    log := Expected.logged s [.sDone] }

/-- The wrong-ack branch of 43_sender.md R215, with its cause code. -/
def Sys2Proof.Expected.rearmed (s : State) (cause : SCause) : State :=
  { s with S := { s.S with timerArmed := true, timerCnt := 0#16, last := cause } }

/-- The sender in FATAL, with the writes before its `Transmit` kept in `x` (60_exceptions.md R275, R276). -/
def Sys2Proof.Expected.senderFatal (s : State) (x : Sender) (d : Bytes) : State :=
  { s with
    S := { x with state := .fatal, timerArmed := false, timerCnt := 0#16, last := .fatal }
    failS := false
    log := Expected.logged s [.sTx d, .fatal .sender] }

/-- The response test of 43_sender.md R213, on the datagram itself. -/
def Sys2Proof.Expected.good (c : Config) (d : Bytes) : Prop :=
  12 ≤ d.length ∧ d.length ≤ c.maxDgram ∧ (verify d = true ∨ c.ackVerify = false)

/-- The datagram an instruction gives to the sender, if it gives one. -/
def Sys2Proof.Expected.toSender : Instr → Option Bytes
  | .sResp d => some d
  | .ackSeq0 p => some (encode (.ackSeq0 p))
  | .ackSeq1 p => some (encode (.ackSeq1 p))
  | _ => none

/-- The datagram an instruction gives to the receiver, if it gives one. -/
def Sys2Proof.Expected.toReceiver : Instr → Option Bytes
  | .rDgram d => some d
  | .dataSeq0 p => some (encode (.dataSeq0 p))
  | .dataSeq1 p => some (encode (.dataSeq1 p))
  | _ => none

/-- The reserved transaction codes as 30_encoding.md R112 lists them. -/
def Sys2Proof.Expected.reservedCode (n : Nat) : Prop :=
  n = 0x00 ∨ (0x04 ≤ n ∧ n ≤ 0x07) ∨ (0x09 ≤ n ∧ n ≤ 0x0F) ∨ (0x14 ≤ n ∧ n ≤ 0x1F) ∨ (0x21 ≤ n ∧ n ≤ 0x3F) ∨
    (0x42 ≤ n ∧ n ≤ 0xFE)

/-- A T1 record (30_encoding.md R109): the code, the length high byte first, the bytes. -/
def Sys2Proof.Expected.recordT1 (code : Byte) (b : Bytes) : Bytes :=
  code :: (BitVec.ofNat 16 b.length).extractLsb' 8 8 :: (BitVec.ofNat 16 b.length).extractLsb' 0 8 :: b

/-- The 16-bit words that 40_checksum.md R130 sums: byte pairs, and a last odd byte as a high byte. -/
def Sys2Proof.Expected.words : Bytes → List Word16
  | [] => []
  | [hi] => [word16 hi 0#8]
  | hi :: lo :: rest => word16 hi lo :: words rest

/-- The sender's control states and their codes (10_state.md R21). -/
def Sys2Proof.Expected.stateCodes : List (SState × BitVec 2) := [(.ready, 0b00#2), (.waitAck, 0b01#2), (.fatal, 0b10#2)]

/-- The sender's cause codes (60_exceptions.md R271). -/
def Sys2Proof.Expected.senderCodes : List (SCause × BitVec 4) :=
  [(.none, 0#4), (.corrupt, 1#4), (.timeout, 2#4), (.staleAck, 3#4), (.fatal, 4#4), (.tooLong, 5#4), (.confirmed, 6#4),
    (.sent, 7#4)]

/-- The receiver's cause codes (R271). -/
def Sys2Proof.Expected.receiverCodes : List (RCause × BitVec 4) :=
  [(.none, 0#4), (.corrupt, 1#4), (.duplicate, 3#4), (.fatal, 4#4), (.accepted, 6#4)]

/-- Nothing is offered on the ports; the application may take payloads or not. -/
def Sys2Proof.Expected.quiet (s : State) : Prop := ∃ ready : Bool, s.ports = { Ports.idle with rDlvReady := ready }

/-- No receiver transaction in progress completes at this step. -/
def Sys2Proof.Expected.noDelivery (s : State) : Prop := s.rBusy = none ∨ s.ports.rDlvReady = false

/-- Going from `s` to `t` emits the event. -/
def Sys2Proof.Expected.emits (s t : State) (e : Event) : Prop := e ∈ (observation s t).map (·.2)

/-! ## Encoding -/

/-- Decoding reverses encoding, for every well-formed instruction of every row (30_encoding.md R90, R91, R109). -/
def Obligations.DecodeReversesEncode : Prop :=
  ∀ i : Instr, i.wf = true → decode i.channel (encode i) = .ok (i, [])

/-- A trace is read back record by record: the first record of a longer trace leaves the rest untouched, a whole trace
decodes to its records (30_encoding.md R107, R109), and whatever a trace decodes to is within the operand limits (R101,
R110). -/
def Obligations.TraceDecodesRecordByRecord : Prop :=
  (∀ (i : Instr) (rest : Bytes), i.wf = true → i.channel = .trace →
    decode .trace (encode i ++ rest) = .ok (i, rest)) ∧
  (∀ is : List Instr, (∀ i ∈ is, i.wf = true ∧ i.channel = .trace) → decodeTrace (encodeTrace is) = .ok is) ∧
  (∀ (b : Bytes) (is : List Instr), decodeTrace b = .ok is → ∀ i ∈ is, i.wf = true ∧ i.channel = .trace)

/-- What decodes is spelled one way only: the bytes read are the encoding of the instruction, which is well formed
(for a datagram within the length limit of 20_memory.md R81). -/
def Obligations.EachInstructionHasOneSpelling : Prop :=
  ∀ (ch : Channel) (b : Bytes) (i : Instr) (rest : Bytes), decode ch b = .ok (i, rest) →
    b = encode i ++ rest ∧ i.channel = ch ∧ (ch = .trace ∨ b.length ≤ operandLimit → i.wf = true)

/-- 30_encoding.md §5 (R112): a step refuses a trace whose next record has a reserved code, reserved T2 flags or reserved
T3 address bits, or is cut off, and no other code is reserved. That the refusal comes at the step that reaches the
record is the model's reading (log 11); so the premises are that nothing is taken from the ports and that no
record before it still waits for the application (log 26). -/
def Obligations.MalformedRecordsAreRefused : Prop :=
  ∀ s : State, Expected.quiet s → Expected.noDelivery s → s.traceWaits = false →
    (∀ (code : Byte) (rest : Bytes), s.trace = code :: rest → Expected.reservedCode code.toNat →
      step s = .refused (.spellsNoTransaction (.reservedCode code))) ∧
    (∀ (flags : Byte) (rest : Bytes), s.trace = 0x12#8 :: flags :: rest → 4 ≤ flags.toNat →
      step s = .refused (.spellsNoTransaction (.reservedFlags flags))) ∧
    (∀ (addr : Byte) (rest : Bytes), s.trace = 0x20#8 :: addr :: rest → 16 ≤ addr.toNat →
      step s = .refused (.spellsNoTransaction (.reservedAddr addr))) ∧
    (∀ (i : Instr) (k : Nat), i.wf = true → i.channel = .trace → 0 < k → k < (encode i).length →
      s.trace = (encode i).take k → step s = .refused (.spellsNoTransaction .truncatedRecord)) ∧
    (∀ (code c : Byte) (rest : Bytes), ¬ Expected.reservedCode code.toNat →
      decode .trace (code :: rest) ≠ .error (.reservedCode c))

/-- 30_encoding.md R111: the four example records, written out byte by byte. -/
def Obligations.ExampleRecordsDecode : Prop :=
  decode .trace [0x03#8] = .ok (.sTick, []) ∧
  decode .trace [0x20#8, 0x01#8] = .ok (.hRead 1#4, []) ∧
  decode .trace [0x01#8, 0x00#8, 0x04#8, 0x6d#8, 0x73#8, 0x67#8, 0x31#8] =
    .ok (.sSend [0x6d#8, 0x73#8, 0x67#8, 0x31#8], []) ∧
  decode .trace [0x12#8, 0x02#8, 0x00#8, 0x00#8] = .ok (.cEncode true false [], [])

/-- 30_encoding.md R91: the packed header as a number, and its two bytes in a packet. -/
def Obligations.PackedHeaderLayout : Prop :=
  ∀ (p : Packet) (a q : Bool),
    (packHeader p.totalLength a q).toNat = p.totalLength.toNat * 4 + a.toNat * 2 + q.toNat ∧
    (wireBytes p a q).getD 10 0#8 = p.totalLength.extractLsb' 6 8 ∧
    (wireBytes p a q).getD 11 0#8 = p.totalLength.extractLsb' 0 6 ++ BitVec.ofBool a ++ BitVec.ofBool q

/-- 30_encoding.md §1 (R94, R97): every datagram of 12 bytes or more is a packet of the class that the low two bits of
its header select, whatever its other bits are. -/
def Obligations.LowHeaderBitsSelectPacketClass : Prop :=
  ∀ d : Bytes, 12 ≤ d.length →
    ∃ p : Packet,
      ((u16be d 10).toNat % 4 = 0 → decode .wire d = .ok (.dataSeq0 p, []) ∧ encode (.dataSeq0 p) = d) ∧
      ((u16be d 10).toNat % 4 = 1 → decode .wire d = .ok (.dataSeq1 p, []) ∧ encode (.dataSeq1 p) = d) ∧
      ((u16be d 10).toNat % 4 = 2 → decode .wire d = .ok (.ackSeq0 p, []) ∧ encode (.ackSeq0 p) = d) ∧
      ((u16be d 10).toNat % 4 = 3 → decode .wire d = .ok (.ackSeq1 p, []) ∧ encode (.ackSeq1 p) = d) ∧
      p.totalLength.toNat = (u16be d 10).toNat / 4 ∧ p.payload = d.drop 12

/-- 30_encoding.md R95: the bytes of the ack packet for seqNum `q`. -/
def Obligations.AckPacketBytes : Prop :=
  ∀ (c : Config) (q : Bool),
    encodePacket c [] true q =
      c.magic.bytes ++
        be16 (checksum (c.magic.bytes ++ [0x00#8, 0x00#8] ++ be16 (0x0032#16 ||| (BitVec.ofBool q).setWidth 16))) ++
        be16 (0x0032#16 ||| (BitVec.ofBool q).setWidth 16)

/-- 30_encoding.md §3 (R103): a transfer of `b` is 1 + len(b) beats and is read back whole, whatever follows it. -/
def Obligations.PortTransferIsReadBack : Prop :=
  ∀ (b : Bytes) (rest : List Beat), b.length ≤ 65535 →
    (beats b).length = 1 + b.length ∧ takeTransfer (beats b ++ rest) = some (b, rest)

/-- 30_encoding.md §4 (R107, R110) and R101: a record within the operand limits written as a line is read back, and no line
is read as another. That a line whose operand is over the limit is no record is the model's reading (log 24). -/
def Obligations.TraceTextIsReadBack : Prop :=
  (∀ (i : Instr) (line : List Char), writeRecord i = some line →
    readLine line = if i.wf = true then some (some (.record i)) else none) ∧
  (∀ (i : Instr) (line : List Char), readLine line = some (some (.record i)) → i.wf = true ∧ i.channel = .trace)

/-- 30_encoding.md §4 (R108): what the pseudo-records expand to; and a line whose expansion has a record over the operand
limits of R101 is not run (log 24). -/
def Obligations.PseudoRecordsExpand : Prop :=
  ∀ s : State,
    (∀ n : Nat, 1 ≤ n → expandLine s (.ticks n) = some (List.replicate n .sTick)) ∧
    (∀ (before after : List (Nat × Event)) (k : Nat) (d : Bytes), s.log = before ++ (k, .sTx d) :: after →
      sentDatagrams after = [] → expandLine s .fwdS = some [.rDgram d]) ∧
    (∀ (before after : List (Nat × Event)) (k : Nat) (d : Bytes), s.log = before ++ (k, .rTx d) :: after →
      ackDatagrams after = [] → expandLine s .fwdR = some [.sResp d]) ∧
    expandLine s .drop = some [] ∧
    (∀ (l : Line) (ls : List Line) (is : List Instr), expandLine s l = some is → (∃ i ∈ is, i.wf = false) →
      runLines (l :: ls) s = none)

/-! ## Checksum engine -/

/-- 40_checksum.md R131: the fold ends, and the value of `Sum16`. -/
def Obligations.Sum16RangeAndCongruence : Prop :=
  ∀ b : Bytes,
    foldCarries (wordSum b) (wordSum b) ≤ 0xFFFF ∧
    (sum16 b = 0#16 ↔ ∀ x ∈ b, x = 0#8) ∧
    (sum16 b ≠ 0#16 →
      ∀ v : Nat, 1 ≤ v ∧ v ≤ 0xFFFF ∧ v % 0xFFFF = wordSum b % 0xFFFF ↔ v = (sum16 b).toNat) ∧
    (sum16 b = 0xFFFF#16 ↔ 0 < wordSum b ∧ 0xFFFF ∣ wordSum b)

/-- 40_checksum.md R133 and R134: `Checksum` is 0xFFFF less `Sum16`, and `Verify` tests `Sum16` for 0xFFFF. -/
def Obligations.ChecksumComplementsSum16 : Prop :=
  ∀ b : Bytes,
    (checksum b).toNat = 0xFFFF - (sum16 b).toNat ∧
    (sum16 b = 0x0000#16 → checksum b = 0xFFFF#16) ∧
    (sum16 b = 0xFFFF#16 → checksum b = 0x0000#16) ∧
    (verify b = true ↔ sum16 b = 0xFFFF#16)

/-- 40_checksum.md R132: a 32-bit accumulator and two fold passes give the same result. -/
def Obligations.NarrowAccumulatorSuffices : Prop :=
  ∀ b : Bytes, b.length ≤ 65535 →
    wordSum b < 2 ^ 31 ∧
    foldPass (wordSum b) ≤ 0xFFFF + 0x7FFF ∧
    foldPass (foldPass (wordSum b)) ≤ 0xFFFF ∧
    (sum16 b).toNat = foldPass (foldPass (BitVec.ofNat 32 (wordSum b)).toNat)

/-- 40_checksum.md R135: a string whose checksum field holds the checksum of the string with that field zero
verifies. -/
def Obligations.InsertedChecksumVerifies : Prop :=
  ∀ z : Bytes, 10 ≤ z.length → z.getD 8 0xFF#8 = 0#8 → z.getD 9 0xFF#8 = 0#8 →
    verify (memWrite z 8 (be16 (checksum z))) = true

/-- 40_checksum.md §2 (the first claim of R136): one inverted bit, anywhere, is detected. -/
def Obligations.SingleBitInversionIsDetected : Prop :=
  ∀ (p : Bytes) (k j : Nat), verify p = true → k < p.length → j < 8 →
    verify (p.set k (p.getD k 0#8 ^^^ BitVec.twoPow 8 j)) = false

/-- 40_checksum.md §2 (the second claim of R136): a change that moves the unfolded sum by a multiple of 0xFFFF is not
detected. The premise that the changed sum is positive is the model's (log 22): the one change R136 does not except,
a sole nonzero word 0xFFFF turned to 0x0000, gives `Sum16` 0, which fails by R131. -/
def Obligations.CancellingChangesAreUndetected : Prop :=
  ∀ p q : Bytes, verify p = true → 0 < wordSum q → wordSum q % 0xFFFF = wordSum p % 0xFFFF → verify q = true

/-- 40_checksum.md R137: the streaming sum equals `Sum16`. -/
def Obligations.StreamingSumEqualsSum16 : Prop :=
  ∀ b : Bytes, streamSum16 b = sum16 b

/-- 40_checksum.md R138: only the multiset of words counts, and swapping the two bytes of a word changes its value. -/
def Obligations.WordOrderIsIrrelevant : Prop :=
  (∀ b b' : Bytes, (Expected.words b).Perm (Expected.words b') → sum16 b = sum16 b') ∧
  (∀ hi lo : Byte, hi ≠ lo → word16 hi lo ≠ word16 lo hi ∧ wordSum [hi, lo] ≠ wordSum [lo, hi])

/-! ## Encoder and decoder -/

/-- 41_codec.md R153: the properties of an encoded packet. -/
def Obligations.EncodedPacketProperties : Prop :=
  ∀ (c : Config) (p : Bytes) (a q : Bool), p.length ≤ c.maxPayload.val →
    (encodePacket c p a q).length = 12 + p.length ∧
    (encodePacket c p a q).take 8 = c.magic.bytes ∧
    (u16be (encodePacket c p a q) 10).toNat = (12 + p.length) * 4 + a.toNat * 2 + q.toNat ∧
    (encodePacket c p a q).drop 12 = p ∧
    verify (encodePacket c p a q) = true

/-- 41_codec.md R158: decoding an encoded packet. -/
def Obligations.DatagramDecodeReversesEncode : Prop :=
  ∀ (c : Config) (p : Bytes) (a q : Bool), p.length ≤ c.maxPayload.val →
    let r := decodeDatagram c (encodePacket c p a q)
    r.valid = true ∧ r.sizeOk = true ∧ r.csumOk = true ∧ r.length.toNat = 12 + p.length ∧ r.ackFlag = a ∧
      r.seqNum = q ∧ r.payload = p

/-- 41_codec.md §2 (R157), 42_receiver.md R187, 43_sender.md R217: the engines read of a datagram only its validity, its
seqNum and, where it is accepted, its payload; not its magic, ackFlag or totalLength. -/
def Obligations.UnreadFieldsDoNotMatter : Prop :=
  ∀ (d d' : Bytes) (s : State), (decodeDatagram s.cfg d).seqNum = (decodeDatagram s.cfg d').seqNum →
    ((decodeDatagram s.cfg d).valid = (decodeDatagram s.cfg d').valid →
      (decodeDatagram s.cfg d).payload = (decodeDatagram s.cfg d').payload →
      exec (.rDgram d) s = exec (.rDgram d') s) ∧
    ((Expected.good s.cfg d ↔ Expected.good s.cfg d') → exec (.sResp d) s = exec (.sResp d') s)

/-- 20_memory.md §6 (R81): the engines treat any two datagrams longer than MAX_DGRAM alike, so no byte of one
matters. -/
def Obligations.OversizeDatagramsAreUnread : Prop :=
  ∀ (d d' : Bytes) (s : State), s.cfg.maxDgram < d.length → s.cfg.maxDgram < d'.length →
    exec (.rDgram d) s = exec (.rDgram d') s ∧ exec (.sResp d) s = exec (.sResp d') s

/-- 40_checksum.md R140, R141 and 41_codec.md R160, R161: every request on the codec port completes with its response,
and writes no state; with the encodings of the four transactions as records and as requests, and with what `Decode`
returns for every datagram (R156, R159). -/
def Obligations.CodecPortResponds : Prop :=
  ∀ s : State,
    (∀ b : Bytes, encode (.cCsum b) = Expected.recordT1 0x10#8 b ∧ encode (.cVerify b) = Expected.recordT1 0x11#8 b ∧
      encode (.cDecode b) = Expected.recordT1 0x13#8 b ∧
      ∀ f : BitVec 2, CodecReq.instr ⟨0#2, f, b⟩ = .cCsum b ∧ CodecReq.instr ⟨1#2, f, b⟩ = .cVerify b ∧
        CodecReq.instr ⟨2#2, f, b⟩ = .cEncode (f.getLsbD 1) (f.getLsbD 0) b ∧
        CodecReq.instr ⟨3#2, f, b⟩ = .cDecode b) ∧
    (∀ (a q : Bool) (p : Bytes), ∃ f : Byte, f.toNat = a.toNat * 2 + q.toNat ∧
      encode (.cEncode a q p) = 0x12#8 :: f :: (Expected.recordT1 0x12#8 p).tail) ∧
    (∀ b : Bytes,
      let r := decodeDatagram s.cfg b
      (r.sizeOk = true ↔ 12 ≤ b.length ∧ b.length ≤ s.cfg.maxDgram) ∧
      r.csumOk = verify b ∧ r.valid = (r.sizeOk && r.csumOk) ∧
      (12 ≤ b.length → r.header = u16be b 10) ∧ (b.length < 12 → r.header = 0x0000#16 ∧ r.payload = []) ∧
      r.length.toNat = r.header.toNat / 4 ∧ r.ackFlag = r.header.getLsbD 1 ∧ r.seqNum = r.header.getLsbD 0 ∧
      (r.sizeOk = true → r.payload = b.drop 12) ∧ (r.sizeOk = false → r.payload = [])) ∧
    (∀ b : Bytes, exec (.cCsum b) s =
      .next { s with log := Expected.logged s [.cRsp (be16 (sum16 b) ++ be16 (checksum b))] }) ∧
    (∀ b : Bytes, ∃ x : Byte, (x = 0x01#8 ↔ verify b = true) ∧ (x = 0x00#8 ↔ verify b = false) ∧
      exec (.cVerify b) s = .next { s with log := Expected.logged s [.cRsp [x]] }) ∧
    (∀ (a q : Bool) (p : Bytes), s.cfg.maxPayload.val < p.length →
      exec (.cEncode a q p) s = .next { s with log := Expected.logged s [.cRsp [0x01#8]] }) ∧
    (∀ (a q : Bool) (p : Bytes), p.length ≤ s.cfg.maxPayload.val →
      exec (.cEncode a q p) s =
        .next { s with log := Expected.logged s [.cRsp (0x00#8 :: encodePacket s.cfg p a q)] }) ∧
    (∀ b : Bytes, ∃ st : Byte,
      st.toNat = (decodeDatagram s.cfg b).valid.toNat * 4 + (decodeDatagram s.cfg b).sizeOk.toNat * 2 +
        (decodeDatagram s.cfg b).csumOk.toNat ∧
      exec (.cDecode b) s = .next { s with
        log := Expected.logged s
          [.cRsp (st :: (be16 (decodeDatagram s.cfg b).header ++ (decodeDatagram s.cfg b).payload))] })

/-! ## Register port and trace directives -/

/-- 44_host.md R250, R251 and the register map (10_state.md R39 to R48, and R49): a read completes in every state with
one 32-bit value, whose fields are as the map says, with the codes of R21 and 60_exceptions.md R271, and changes nothing
else; with its encoding. -/
def Obligations.RegisterReadsReturnFields : Prop :=
  ∀ (s : State) (a : BitVec 4), ∃ (v : Word32) (x : Byte),
    x.toNat = a.toNat ∧ encode (.hRead a) = [0x20#8, x] ∧
    exec (.hRead a) s = .next { s with log := Expected.logged s [.hRdata v] } ∧
    (a = 0x0#4 → v = 0x52445433#32) ∧
    (a = 0x1#4 → (s.S.state, v.extractLsb' 0 2) ∈ Expected.stateCodes ∧ v.getLsbD 2 = s.S.curSeq ∧
      v.getLsbD 3 = s.S.timerArmed ∧ (s.S.last, v.extractLsb' 4 4) ∈ Expected.senderCodes ∧
      v.extractLsb' 8 24 = 0#24) ∧
    (a = 0x2#4 → v.extractLsb' 0 16 = s.S.retx ∧ v.extractLsb' 16 16 = 0#16) ∧
    (a = 0x3#4 → v.extractLsb' 0 16 = s.S.timerCnt ∧ v.extractLsb' 16 14 = s.S.outLen ∧
      v.extractLsb' 30 2 = 0#2) ∧
    (a = 0x4#4 → v.getLsbD 0 = s.R.expSeq ∧ v.getLsbD 1 = s.R.lastAck ∧ v.getLsbD 2 = s.R.fatal ∧
      v.getLsbD 3 = false ∧ (s.R.last, v.extractLsb' 4 4) ∈ Expected.receiverCodes ∧ v.extractLsb' 8 24 = 0#24) ∧
    (a = 0x5#4 → v = s.R.cntAccept) ∧
    (a = 0x6#4 → v = s.R.cntCorrupt) ∧
    (a = 0x7#4 → v = s.R.cntDup) ∧
    (a = 0x8#4 → v.extractLsb' 0 16 = s.cfg.timeoutTicks ∧ (v.extractLsb' 16 14).toNat = s.cfg.maxPayload.val ∧
      v.getLsbD 30 = s.cfg.ackVerify ∧ v.getLsbD 31 = false) ∧
    (a = 0x9#4 → v.extractLsb' 24 8 = s.cfg.magic.b0 ∧ v.extractLsb' 16 8 = s.cfg.magic.b1 ∧
      v.extractLsb' 8 8 = s.cfg.magic.b2 ∧ v.extractLsb' 0 8 = s.cfg.magic.b3) ∧
    (a = 0xA#4 → v.extractLsb' 24 8 = s.cfg.magic.b4 ∧ v.extractLsb' 16 8 = s.cfg.magic.b5 ∧
      v.extractLsb' 8 8 = s.cfg.magic.b6 ∧ v.extractLsb' 0 8 = s.cfg.magic.b7) ∧
    (0xB ≤ a.toNat → v = 0#32)

/-- 44_host.md R253 and R254: a directive sets its flag and nothing else, a second one has no further effect, and the
next `Transmit` on its port consumes the flag and returns `err`; with their encodings. -/
def Obligations.TransportFailureDirectives : Prop :=
  ∀ s : State,
    encode .sTxFail = [0x40#8] ∧ encode .rTxFail = [0x41#8] ∧
    exec .sTxFail s = .next { s with failS := true } ∧
    exec .rTxFail s = .next { s with failR := true } ∧
    (∀ t : State, exec .sTxFail s = .next t →
      exec .sTxFail t = .next t ∧
      ∀ d : Bytes, (transmit .sender d t).1 = .err ∧ (transmit .sender d t).2.failS = false ∧
        (transmit .sender d t).2.failR = s.failR) ∧
    (∀ t : State, exec .rTxFail s = .next t →
      exec .rTxFail t = .next t ∧
      ∀ d : Bytes, (transmit .receiver d t).1 = .err ∧ (transmit .receiver d t).2.failR = false ∧
        (transmit .receiver d t).2.failS = s.failS)

/-- 44_host.md §2 (R255): in a trace, without a pending directive every `Transmit` returns `ok`. R255 calls the answer a free
draw otherwise; that the port's flag is the answer of every `Transmit`, also of one that a port offer causes, is the
model's reading (log 4), in which the flag itself is the draw. -/
def Obligations.TransmitAnswersOkWithoutDirective : Prop :=
  ∀ (s : State) (d : Bytes),
    ((transmit .sender d s).1 = .ok ↔ s.failS = false) ∧ ((transmit .receiver d s).1 = .ok ↔ s.failR = false)

/-! ## Sender -/

/-- 43_sender.md R210: `S_SEND` in each case, with its encoding. Outside READY the message is held: `s_msg_ready` is low
and nothing changes (00_scope.md R10). The pulse `s_msg_err` is high after a refused message and low after an accepted one
(20_memory.md R74); that it is read off the events of the record applied last is the model's (log 5). The premise about
tags is kept by every step (`State.Inv`). -/
def Obligations.SendTransaction : Prop :=
  ∀ (m : Bytes) (s : State),
    encode (.sSend m) = Expected.recordT1 0x01#8 m ∧
    (s.S.state = .ready → s.cfg.maxPayload.val < m.length →
      exec (.sSend m) s = .next { s with
        S := { s.S with last := .tooLong }
        log := Expected.logged s [.sMsgErr] }) ∧
    (s.S.state = .ready → m.length ≤ s.cfg.maxPayload.val → s.failS = false →
      exec (.sSend m) s = .next { s with
        S := { s.S with
          state := .waitAck
          outBuf := encodePacket s.cfg m false s.S.curSeq
          outLen := BitVec.ofNat 14 (12 + m.length)
          timerArmed := true
          timerCnt := 0#16
          retx := 0#16
          last := .sent }
        log := Expected.logged s [.sTx (encodePacket s.cfg m false s.S.curSeq)] }) ∧
    (s.S.state = .ready → m.length ≤ s.cfg.maxPayload.val → s.failS = true →
      exec (.sSend m) s = .next (Expected.senderFatal s
        { s.S with
          outBuf := encodePacket s.cfg m false s.S.curSeq
          outLen := BitVec.ofNat 14 (12 + m.length)
          retx := 0#16 }
        (encodePacket s.cfg m false s.S.curSeq))) ∧
    (s.S.state ≠ .ready → sMsgReady s = false ∧ held (.sSend m) s = true ∧
      ∀ t : State, exec (.sSend m) s = .next t → t = s) ∧
    (∀ t : State, exec (.sSend m) s = .next t →
      (s.S.state = .ready → s.cfg.maxPayload.val < m.length → sMsgErrPulse (finish t) = true) ∧
      ((∀ e ∈ s.log, e.1 < s.recNo) → s.S.state = .ready → m.length ≤ s.cfg.maxPayload.val →
        sMsgErrPulse (finish t) = false))

/-- 43_sender.md R212, R213, R215, R216 (and the writes of R214): `S_RESP` in each case, with its encoding. The pulse
`s_done` is high for a confirming response and low otherwise (20_memory.md R74; that it is read off the events of the
record applied last is log 5). -/
def Obligations.ResponseTransaction : Prop :=
  ∀ (d : Bytes) (s : State),
    encode (.sResp d) = Expected.recordT1 0x02#8 d ∧
    (s.S.state = .waitAck → Expected.good s.cfg d → (u16be d 10).getLsbD 0 = s.S.curSeq →
      exec (.sResp d) s = .next (Expected.confirmed s)) ∧
    (s.S.state = .waitAck → Expected.good s.cfg d → (u16be d 10).getLsbD 0 ≠ s.S.curSeq →
      exec (.sResp d) s = .next (Expected.rearmed s .staleAck)) ∧
    (s.S.state = .waitAck → ¬ Expected.good s.cfg d →
      exec (.sResp d) s = .next (Expected.rearmed s .corrupt)) ∧
    (s.S.state ≠ .waitAck → exec (.sResp d) s = .next s) ∧
    (∀ t : State, exec (.sResp d) s = .next t →
      let confirms := s.S.state = .waitAck ∧ Expected.good s.cfg d ∧ (u16be d 10).getLsbD 0 = s.S.curSeq
      (confirms → sDonePulse (finish t) = true) ∧
      ((∀ e ∈ s.log, e.1 < s.recNo) → ¬ confirms → sDonePulse (finish t) = false))

/-- 43_sender.md R218 and R219: `S_TICK` in each case, with its encoding, the retransmission of the kept packet, the
saturating count, and the bound on the timer count in states that keep the sender's invariant (outside them the 16-bit
count wraps, log 12). -/
def Obligations.TickTransaction : Prop :=
  ∀ s : State,
    encode .sTick = [0x03#8] ∧
    (s.S.Inv s.cfg → ∀ t : State, exec .sTick s = .next t → t.S.timerCnt.toNat ≤ s.cfg.timeoutTicks.toNat) ∧
    (s.S.state ≠ .waitAck ∨ s.S.timerArmed = false → exec .sTick s = .next s) ∧
    (s.S.state = .waitAck → s.S.timerArmed = true → s.S.timerCnt + 1#16 ≠ s.cfg.timeoutTicks →
      exec .sTick s = .next { s with S := { s.S with timerCnt := s.S.timerCnt + 1#16 } }) ∧
    (s.S.state = .waitAck → s.S.timerArmed = true → s.S.timerCnt + 1#16 = s.cfg.timeoutTicks →
      s.failS = false →
      exec .sTick s = .next { s with
        S := { s.S with
          retx := BitVec.ofNat 16 (min (s.S.retx.toNat + 1) 0xFFFF)
          timerArmed := true
          timerCnt := 0#16
          last := .timeout }
        log := Expected.logged s [.sTx s.S.outBuf] }) ∧
    (s.S.state = .waitAck → s.S.timerArmed = true → s.S.timerCnt + 1#16 = s.cfg.timeoutTicks →
      s.failS = true →
      exec .sTick s = .next (Expected.senderFatal s
        { s.S with retx := BitVec.ofNat 16 (min (s.S.retx.toNat + 1) 0xFFFF) } s.S.outBuf))

/-- 30_encoding.md R94 with 43_sender.md R212: a packet of class ACK_SEQ0 or ACK_SEQ1 at the sender. A packet has its
header, so only its upper size limit and its checksum are tested. -/
def Obligations.AckPacketsAtSender : Prop :=
  ∀ (p : Packet) (s : State),
    (s.S.state ≠ .waitAck → exec (.ackSeq0 p) s = .next s ∧ exec (.ackSeq1 p) s = .next s) ∧
    (s.S.state = .waitAck → 12 + p.payload.length ≤ s.cfg.maxDgram →
      (verify (encode (.ackSeq0 p)) = true ∨ s.cfg.ackVerify = false) →
      exec (.ackSeq0 p) s = .next (if s.S.curSeq = false then Expected.confirmed s
        else Expected.rearmed s .staleAck)) ∧
    (s.S.state = .waitAck → 12 + p.payload.length ≤ s.cfg.maxDgram →
      (verify (encode (.ackSeq1 p)) = true ∨ s.cfg.ackVerify = false) →
      exec (.ackSeq1 p) s = .next (if s.S.curSeq = true then Expected.confirmed s
        else Expected.rearmed s .staleAck)) ∧
    (s.S.state = .waitAck →
      (s.cfg.maxDgram < 12 + p.payload.length ∨ (verify (encode (.ackSeq0 p)) = false ∧ s.cfg.ackVerify = true)) →
      exec (.ackSeq0 p) s = .next (Expected.rearmed s .corrupt)) ∧
    (s.S.state = .waitAck →
      (s.cfg.maxDgram < 12 + p.payload.length ∨ (verify (encode (.ackSeq1 p)) = false ∧ s.cfg.ackVerify = true)) →
      exec (.ackSeq1 p) s = .next (Expected.rearmed s .corrupt))

/-- 10_state.md R22: only a confirming response flips `S.curSeq`, and reset sets it to 0. -/
def Obligations.OnlyConfirmationFlipsCurSeq : Prop :=
  ∀ (i : Instr) (s t : State), exec i s = .next t →
    (i = .rst → t.S.curSeq = false) ∧
    (i ≠ .rst → t.S.curSeq ≠ s.S.curSeq →
      ∃ d : Bytes, Expected.toSender i = some d ∧ s.S.state = .waitAck ∧ Expected.good s.cfg d ∧
        (u16be d 10).getLsbD 0 = s.S.curSeq ∧ t.S.state = .ready)

/-- 10_state.md §1 (R23): the kept packet and its length are written by an accepted message and by reset only. -/
def Obligations.OnlySendWritesOutBuf : Prop :=
  ∀ (i : Instr) (s t : State), exec i s = .next t →
    (t.S.outBuf ≠ s.S.outBuf ∨ t.S.outLen ≠ s.S.outLen) →
      i = .rst ∨ ∃ m : Bytes, i = .sSend m ∧ s.S.state = .ready ∧ m.length ≤ s.cfg.maxPayload.val ∧
        t.S.outBuf = encodePacket s.cfg m false s.S.curSeq

/-- 43_sender.md R222: at most one packet in flight, alternation, and no false success. A round's first transmission
carries the packet that is then kept, and every later one the kept packet. -/
def Obligations.SenderProtocolProperties : Prop :=
  ∀ (i : Instr) (s t : State), exec i s = .next t → i ≠ .rst →
    (s.S.state = .ready → sentDatagrams t.log = sentDatagrams s.log ∨
      ((∃ m : Bytes, i = .sSend m) ∧ sentDatagrams t.log = sentDatagrams s.log ++ [t.S.outBuf])) ∧
    (s.S.state = .waitAck →
      (sentDatagrams t.log = sentDatagrams s.log ∨ sentDatagrams t.log = sentDatagrams s.log ++ [s.S.outBuf]) ∧
      t.S.outBuf = s.S.outBuf) ∧
    (t.S.curSeq = (!s.S.curSeq) ↔ Expected.emits s t .sDone) ∧
    (Expected.emits s t .sDone → t.S.state = .ready ∧
      ∃ d : Bytes, Expected.toSender i = some d ∧ s.S.state = .waitAck ∧ Expected.good s.cfg d ∧
        (u16be d 10).getLsbD 0 = s.S.curSeq)

/-- 43_sender.md §4 (R223): the retransmission comes at the `TIMEOUT_TICKS`-th tick after arming, and not before. -/
def Obligations.RetransmissionAtTimeoutTick : Prop :=
  ∀ s : State, s.S.state = .waitAck → s.S.timerArmed = true → s.S.timerCnt = 0#16 → s.failS = false →
    (∀ k : Nat, k < s.cfg.timeoutTicks.toNat →
      ∃ t : State, runRecords (List.replicate k .sTick) s = .ended t ∧ t.S.timerCnt.toNat = k ∧
        t.S.state = .waitAck ∧ t.log = s.log) ∧
    (s.cfg.wf = true →
      ∃ t : State, runRecords (List.replicate s.cfg.timeoutTicks.toNat .sTick) s = .ended t ∧
        t.S.timerCnt = 0#16 ∧ t.S.state = .waitAck ∧ t.S.last = .timeout ∧
        sentDatagrams t.log = sentDatagrams s.log ++ [s.S.outBuf])

/-! ## Receiver -/

/-- 42_receiver.md R180, R182 to R184 and R188: `R_DGRAM` in each case, with its encoding: the three branches, one ack,
and FATAL when the transport answers `err`. In FATAL, and while a transaction is in progress, the datagram is held:
`r_rx_ready` is low and nothing changes. While the application does not take the payload of an accept branch, the
transaction is in progress: it is taken, `r_rx_ready` is low after it, and nothing else of the branch has happened
(70_reset_and_hazards.md R311). The form of a hold is the model's (log 6), and so is that of a transaction in progress
(log 26). -/
def Obligations.ReceiveTransaction : Prop :=
  ∀ (d : Bytes) (s : State),
    encode (.rDgram d) = Expected.recordT1 0x08#8 d ∧
    (s.R.fatal = true ∨ s.rBusy ≠ none → rRxReady s = false ∧ held (.rDgram d) s = true ∧
      ∀ t : State, exec (.rDgram d) s = .next t → t = s) ∧
    (s.R.fatal = false → s.rBusy = none → (d.length < 12 ∨ s.cfg.maxDgram < d.length ∨ verify d = false) →
      exec (.rDgram d) s = .next (Expected.received s false false [])) ∧
    (s.R.fatal = false → s.rBusy = none → 12 ≤ d.length → d.length ≤ s.cfg.maxDgram → verify d = true →
      ((u16be d 10).getLsbD 0 ≠ s.R.expSeq ∨ s.ports.rDlvReady = true) →
      exec (.rDgram d) s = .next (Expected.received s true ((u16be d 10).getLsbD 0) (d.drop 12))) ∧
    (s.R.fatal = false → s.rBusy = none → 12 ≤ d.length → d.length ≤ s.cfg.maxDgram → verify d = true →
      (u16be d 10).getLsbD 0 = s.R.expSeq → s.ports.rDlvReady = false →
      exec (.rDgram d) s = .next { s with rBusy := some (d.drop 12) } ∧
      rRxReady { s with rBusy := some (d.drop 12) } = false ∧
      rDlvOffered { s with rBusy := some (d.drop 12) } = some (d.drop 12))

/-- 30_encoding.md R94 with 42_receiver.md R180: a packet of class DATA_SEQ0 or DATA_SEQ1 at the receiver. Held, it changes
nothing; that a hold is a next state equal to the state before is the model's form of it (log 6), and so is what waits
for the application (log 26). -/
def Obligations.DataPacketsAtReceiver : Prop :=
  ∀ (p : Packet) (s : State),
    (s.R.fatal = true ∨ s.rBusy ≠ none → exec (.dataSeq0 p) s = .next s ∧ exec (.dataSeq1 p) s = .next s) ∧
    (s.R.fatal = false → s.rBusy = none → 12 + p.payload.length ≤ s.cfg.maxDgram →
      verify (encode (.dataSeq0 p)) = true →
      exec (.dataSeq0 p) s = .next (if s.R.expSeq = false ∧ s.ports.rDlvReady = false then
          { s with rBusy := some p.payload }
        else Expected.received s true false p.payload)) ∧
    (s.R.fatal = false → s.rBusy = none → 12 + p.payload.length ≤ s.cfg.maxDgram →
      verify (encode (.dataSeq1 p)) = true →
      exec (.dataSeq1 p) s = .next (if s.R.expSeq = true ∧ s.ports.rDlvReady = false then
          { s with rBusy := some p.payload }
        else Expected.received s true true p.payload)) ∧
    (s.R.fatal = false → s.rBusy = none →
      (s.cfg.maxDgram < 12 + p.payload.length ∨ verify (encode (.dataSeq0 p)) = false) →
      exec (.dataSeq0 p) s = .next (Expected.received s false false [])) ∧
    (s.R.fatal = false → s.rBusy = none →
      (s.cfg.maxDgram < 12 + p.payload.length ∨ verify (encode (.dataSeq1 p)) = false) →
      exec (.dataSeq1 p) s = .next (Expected.received s false false []))

/-- 42_receiver.md R189: the transition table, in states that keep the receiver's invariant, with no transaction in
progress (its form is log 26) and an application that takes payloads (20_memory.md R73); with the answer `err` a row ends
in FATAL. -/
def Obligations.ReceiverTransitionTable : Prop :=
  ∀ (d : Bytes) (s t : State), s.R.Inv → s.rBusy = none → s.ports.rDlvReady = true →
    exec (.rDgram d) s = .next t →
    let r := decodeDatagram s.cfg d
    let row := fun (from_ : RState) (valid seq : Bool) (payload : List Bytes) (ack exp last : Bool) (to_ : RState)
        (cause : RCause) =>
      s.R.control = from_ → r.valid = valid → (valid = true → r.seqNum = seq) →
        deliveries t.log = deliveries s.log ++ payload ∧
        ackDatagrams t.log = ackDatagrams s.log ++ [encodePacket s.cfg [] true ack] ∧
        t.R.expSeq = exp ∧ t.R.lastAck = last ∧
        (s.failR = false → t.R.control = to_ ∧ t.R.last = cause) ∧
        (s.failR = true → t.R.control = .fatal ∧ t.R.last = .fatal)
    row .waitForEven false false [] true false true .waitForEven .corrupt ∧
    row .waitForEven true false [r.payload] false true false .waitForOdd .accepted ∧
    row .waitForEven true true [] true false true .waitForEven .duplicate ∧
    row .waitForOdd false false [] false true false .waitForOdd .corrupt ∧
    row .waitForOdd true true [r.payload] true false true .waitForEven .accepted ∧
    row .waitForOdd true false [] false true false .waitForOdd .duplicate ∧
    (s.R.control = .fatal → t = s)

/-- 10_state.md R30: only an accepted in-order packet writes `R.expSeq` and `R.lastAck` (beside reset, R33). -/
def Obligations.OnlyAcceptWritesSequenceState : Prop :=
  ∀ (i : Instr) (s t : State), exec i s = .next t → i ≠ .rst →
    (t.R.expSeq ≠ s.R.expSeq ∨ t.R.lastAck ≠ s.R.lastAck) →
      ∃ d : Bytes, Expected.toReceiver i = some d ∧ s.R.fatal = false ∧
        (decodeDatagram s.cfg d).valid = true ∧ (decodeDatagram s.cfg d).seqNum = s.R.expSeq ∧
        t.R.expSeq = (!s.R.expSeq) ∧ t.R.lastAck = s.R.expSeq

/-- 42_receiver.md R185: exactly one ack for each datagram the receiver takes, a 12-byte packet `Encode([], 1, x)`, and
none at any other time. One whose accept branch waits for the application gets its ack when the payload is taken, as
`UntakenPayloadHoldsReceiver` says (70_reset_and_hazards.md R311; the form of the wait is log 26). -/
def Obligations.ExactlyOneAckPerDatagram : Prop :=
  ∀ (i : Instr) (s t : State), exec i s = .next t →
    ((∃ d : Bytes, Expected.toReceiver i = some d) → held i s = false → waits i s = false →
      ∃ x : Bool, ackDatagrams t.log = ackDatagrams s.log ++ [encodePacket s.cfg [] true x] ∧
        (encodePacket s.cfg [] true x).length = 12) ∧
    (Expected.toReceiver i = none ∨ held i s = true ∨ waits i s = true → ackDatagrams t.log = ackDatagrams s.log)

/-- 42_receiver.md R186: in states that keep the invariant of R31 and have no transaction in progress (log 26), the acks of
branches 1 and 2 carry the same seqNum, `not R.expSeq`. -/
def Obligations.ReackBranchesAgree : Prop :=
  ∀ (d : Bytes) (s t : State), s.R.Inv → s.R.fatal = false → s.rBusy = none → exec (.rDgram d) s = .next t →
    ((decodeDatagram s.cfg d).valid = false ∨ (decodeDatagram s.cfg d).seqNum ≠ s.R.expSeq) →
      ackDatagrams t.log = ackDatagrams s.log ++ [encodePacket s.cfg [] true (!s.R.expSeq)] ∧
      deliveries t.log = deliveries s.log

/-- 42_receiver.md §3 (R190): a second copy of an accepted datagram delivers nothing, is counted as a duplicate and gets
the same ack again. The premises are no transaction in progress (log 26) and an application that takes the payload. -/
def Obligations.SecondCopyDeliversNothing : Prop :=
  ∀ (d : Bytes) (s t u : State), s.R.fatal = false → s.failR = false → s.rBusy = none →
    s.ports.rDlvReady = true →
    (decodeDatagram s.cfg d).valid = true → (decodeDatagram s.cfg d).seqNum = s.R.expSeq →
    exec (.rDgram d) s = .next t → exec (.rDgram d) t = .next u →
      deliveries t.log = deliveries s.log ++ [(decodeDatagram s.cfg d).payload] ∧
      deliveries u.log = deliveries t.log ∧ u.R.cntDup = s.R.cntDup + 1#32 ∧ u.R.last = .duplicate ∧
      ∃ ack : Bytes, ackDatagrams u.log = ackDatagrams s.log ++ [ack, ack]

/-! ## Fatal entry, reset and independence -/

/-- 60_exceptions.md R276: what `raise Fatal(A)` does (it keeps every other field, `S.curSeq` and `R.expSeq` among them), and
what an instruction that enters FATAL leaves, for each engine: the writes it makes with the answer `ok`, but for the
state, timer and cause code (R275); so the sender keeps `S.curSeq`, and the receiver's accept branch its new sequence
state. -/
def Obligations.FatalEntryEffect : Prop :=
  ∀ (i : Instr) (s t : State), exec i s = .next t →
    raiseFatal .sender s = { s with
      S := { s.S with state := .fatal, timerArmed := false, timerCnt := 0#16, last := .fatal }
      log := Expected.logged s [.fatal .sender] } ∧
    raiseFatal .receiver s = { s with
      R := { s.R with fatal := true, last := .fatal }
      log := Expected.logged s [.fatal .receiver] } ∧
    (s.S.state ≠ .fatal → t.S.state = .fatal →
      s.failS = true ∧ t.S.timerArmed = false ∧ t.S.timerCnt = 0#16 ∧ t.S.last = .fatal ∧
      t.S.curSeq = s.S.curSeq ∧ t.R = s.R ∧ sFatal t = true ∧
      (∀ u : State, exec i { s with failS := false } = .next u →
        t.S = { u.S with state := .fatal, timerArmed := false, timerCnt := 0#16, last := .fatal }) ∧
      ∃ d : Bytes, t.log = Expected.logged s [.sTx d, .fatal .sender]) ∧
    (s.R.fatal = false → t.R.fatal = true →
      s.failR = true ∧ t.R.last = .fatal ∧ t.S = s.S ∧ rFatal t = true ∧
      (∀ u : State, exec i { s with failR := false } = .next u →
        t.R = { u.R with fatal := true, last := .fatal }) ∧
      ∃ (es : List Event) (d : Bytes), t.log = Expected.logged s (es ++ [.rTx d, .fatal .receiver])) ∧
    (t.failS = false → s.failS = true → i ≠ .rst → t.S.state = .fatal) ∧
    (t.failR = false → s.failR = true → i ≠ .rst → t.R.fatal = true)

/-- 60_exceptions.md R277 and R278: an engine in FATAL takes nothing, changes nothing and transmits nothing, until reset,
which re-initialises both engines (what the unspecified buffer holds then is left open); it has no second `fatal` event.
The premise "no `fatal` event" of a run (44_host.md R258) keeps both engines out of FATAL, and a reset does not make a run
meet it that has had one. -/
def Obligations.FatalUntilReset : Prop :=
  (∀ (is js : List Instr) (s t u : State), runRecords is s = .ended t →
    (outsideFatal s = true → noFatalEvent s t = true → outsideFatal t = true) ∧
    (runRecords js t = .ended u → noFatalEvent s t = false → noFatalEvent s u = false)) ∧
  ∀ (i : Instr) (s t : State), exec i s = .next t →
    (Expected.emits s t (.fatal .sender) ↔ s.S.state ≠ .fatal ∧ t.S.state = .fatal) ∧
    (Expected.emits s t (.fatal .receiver) ↔ s.R.fatal = false ∧ t.R.fatal = true) ∧
    (s.S.state = .fatal → sMsgReady s = false ∧
      (i ≠ .rst → t.S = s.S ∧ sentDatagrams t.log = sentDatagrams s.log) ∧
      (i = .rst → (∃ b : Bytes, t.S = Sender.reset b) ∧ t.R = Receiver.reset)) ∧
    (s.R.fatal = true → rRxReady s = false ∧
      (i ≠ .rst → t.R = s.R ∧ ackDatagrams t.log = ackDatagrams s.log ∧
        deliveries t.log = deliveries s.log) ∧
      (i = .rst → (∃ b : Bytes, t.S = Sender.reset b) ∧ t.R = Receiver.reset))

/-- 70_reset_and_hazards.md R300: `RST` sets every element of 10_state.md R20 and R28 to its value of R52, clears both
trace flags, aborts a receiver transaction in progress, makes no output and keeps the parameters. The content of
`S.outBuf` is unspecified (R23): the statement bounds its length only. That the port offers, the trace and the observation
stay is the model's (log 20), and so is the form of a transaction in progress (log 26). -/
def Obligations.ResetTransaction : Prop :=
  encode .rst = [0xFF#8] ∧
  ∀ s : State, ∃ t : State, exec .rst s = .next t ∧
    t.S.state = .ready ∧ t.S.curSeq = false ∧ t.S.outLen = 0#14 ∧ t.S.timerArmed = false ∧
    t.S.timerCnt = 0#16 ∧ t.S.retx = 0#16 ∧ t.S.last = .none ∧ t.S.outBuf.length ≤ s.cfg.maxDgram ∧
    t.R.expSeq = false ∧ t.R.lastAck = true ∧ t.R.fatal = false ∧ t.R.last = .none ∧
    t.R.cntAccept = 0#32 ∧ t.R.cntCorrupt = 0#32 ∧ t.R.cntDup = 0#32 ∧
    t.failS = false ∧ t.failR = false ∧ t.rBusy = none ∧ t.traceWaits = false ∧
    t.log = s.log ∧ t.recNo = s.recNo ∧ t.cfg = s.cfg ∧ t.ports = s.ports ∧ t.trace = s.trace ∧
    ((∀ e ∈ s.log, e.1 < s.recNo) → sDonePulse (finish t) = false ∧ sMsgErrPulse (finish t) = false)

/-- 70_reset_and_hazards.md R301: the engine after reset, for every choice of the parameters and whatever the ports offer:
control states, the first seqNum sent and accepted, the ack of a corrupted first datagram, and the status registers. That
the application takes the first payload (20_memory.md R73, 70_reset_and_hazards.md R311) is a premise, not the reset value
of log 14. -/
def Obligations.EngineAfterReset : Prop :=
  ∀ (c : Config) (p : Ports),
    let s := { State.resetWith c with ports := p }
    s.S.state = .ready ∧ s.R.control = .waitForEven ∧ s.R.lastAck = true ∧
    (∀ (m : Bytes) (t : State), m.length ≤ c.maxPayload.val → exec (.sSend m) s = .next t →
      sentDatagrams t.log = [encodePacket c m false false]) ∧
    (∀ (d : Bytes) (t : State), exec (.rDgram d) s = .next t → (decodeDatagram c d).valid = true →
      p.rDlvReady = true → (deliveries t.log ≠ [] ↔ (decodeDatagram c d).seqNum = false)) ∧
    (∀ (d : Bytes) (t : State), exec (.rDgram d) s = .next t → (decodeDatagram c d).valid = false →
      ackDatagrams t.log = [encodePacket c [] true true]) ∧
    readReg s 0x1#4 = 0#32 ∧ readReg s 0x2#4 = 0#32 ∧ readReg s 0x3#4 = 0#32 ∧ readReg s 0x4#4 = 2#32 ∧
    readReg s 0x5#4 = 0#32 ∧ readReg s 0x6#4 = 0#32 ∧ readReg s 0x7#4 = 0#32

/-- 60_exceptions.md §5 (R287), 20_memory.md R75: the two engines share no state. What an instruction does to one engine
and its transport flag depends on the parameters, that engine and its flag alone, and only its own instructions (and
reset) change it. The receiver's part has beside it its transaction in progress `rBusy`, whose form and clauses are the model's
(log 26), and the level of `r_dlv` (log 14); the sender's part has the premise that the model's counter `draws` agrees,
which reset reads for the unspecified buffer (log 3). -/
def Obligations.EnginesShareNoState : Prop :=
  ∀ (i : Instr) (s s' t t' : State), exec i s = .next t → exec i s' = .next t' → s.cfg = s'.cfg →
    (s.S = s'.S → s.failS = s'.failS → s.draws = s'.draws → t.S = t'.S ∧ t.failS = t'.failS) ∧
    (s.R = s'.R → s.failR = s'.failR → s.rBusy = s'.rBusy → s.ports.rDlvReady = s'.ports.rDlvReady →
      t.R = t'.R ∧ t.failR = t'.failR ∧ t.rBusy = t'.rBusy) ∧
    (i ≠ .rst → i ≠ .sTick → i ≠ .sTxFail → (∀ m : Bytes, i ≠ .sSend m) → Expected.toSender i = none →
      t.S = s.S ∧ t.failS = s.failS) ∧
    (i ≠ .rst → i ≠ .rTxFail → Expected.toReceiver i = none → t.R = s.R ∧ t.failR = s.failR) ∧
    (i ≠ .rst → Expected.toReceiver i = none → t.rBusy = s.rBusy)

/-- 20_memory.md §6 (R75): a sender datagram and a receiver datagram can be handled in either order: both engines end
alike, and each port carries the same datagrams (the form of a transaction in progress, `rBusy`, is log 26). -/
def Obligations.SenderAndReceiverCommute : Prop :=
  ∀ (d e : Bytes) (s t u t' u' : State),
    exec (.sResp d) s = .next t → exec (.rDgram e) t = .next u →
    exec (.rDgram e) s = .next t' → exec (.sResp d) t' = .next u' →
      u.S = u'.S ∧ u.R = u'.R ∧ u.failS = u'.failS ∧ u.failR = u'.failR ∧ u.rBusy = u'.rBusy ∧
      sentDatagrams u.log = sentDatagrams u'.log ∧ ackDatagrams u.log = ackDatagrams u'.log ∧
      deliveries u.log = deliveries u'.log ∧ u.log.Perm u'.log

/-! ## Steps, traces and invariants -/

/-- 44_host.md §3 (R256): with nothing to take from the ports, a step whose trace begins with the encoding of a
well-formed record that is not held runs `exec` of it on the state whose trace is the rest, and then counts one more
record. A packet on the wire is run likewise by the engine that consumes its class (30_encoding.md R94). An instruction whose
accept branch waits for the application is run without being counted yet, and a record of the trace then holds the trace
(log 26). The trace and the ports as the places a step takes from are the model's (log 8, log 10). -/
def Obligations.StepRunsDecodedInstruction : Prop :=
  ∀ (i : Instr) (rest : Bytes) (s t : State), i.wf = true → Expected.noDelivery s →
    (Expected.quiet s → s.traceWaits = false → i.channel = .trace → s.trace = encode i ++ rest → held i s = false →
      (waits i s = false → exec i { s with trace := rest } = .next t →
        step s = .next { t with recNo := t.recNo + 1 }) ∧
      (waits i s = true → exec i { s with trace := rest, traceWaits := true } = .next t → step s = .next t)) ∧
    (i.channel = .wire → Expected.toSender i ≠ none → s.ports.rst = false → s.ports.sRx = some (encode i) →
      exec i { s with ports := { s.ports with sRx := none } } = .next t →
      step s = .next { t with recNo := t.recNo + 1 }) ∧
    (i.channel = .wire → Expected.toReceiver i ≠ none → s.ports.rst = false → s.ports.sRx = none →
      s.ports.rRx = some (encode i) → held i s = false →
      exec i { s with ports := { s.ports with rRx := none } } = .next t →
      step s = .next (if waits i s = true then t else { t with recNo := t.recNo + 1 }))

/-- 44_host.md §3 (R256), 00_scope.md R10: a held record holds the trace, and an engine with nothing offered is idle:
the state stays as it is; so it does while a trace record waits for the application (93_implementation_defined.md I24). The
form of a hold and of a wait is the model's (log 6, log 7, log 26). Which instructions are held: exactly those whose port's
ready signal is low (R10); and the level outputs of 10_state.md R55 with the ready conditions of 30_encoding.md R105. -/
def Obligations.HeldRecordsKeepTheState : Prop :=
  ∀ s : State,
    (Expected.quiet s → Expected.noDelivery s →
      (s.trace = [] ∨ s.traceWaits = true → step s = .next s) ∧
      (∀ (i : Instr) (rest : Bytes), i.wf = true → i.channel = .trace → s.trace = encode i ++ rest →
        held i s = true → step s = .next s)) ∧
    (∀ i : Instr, held i s = true → exec i s = .next s) ∧
    (∀ i : Instr, held i s = true ↔
      ((∃ m : Bytes, i = .sSend m) ∧ s.S.state ≠ .ready) ∨
      ((∃ d : Bytes, Expected.toReceiver i = some d) ∧ (s.R.fatal = true ∨ s.rBusy ≠ none))) ∧
    (∀ m : Bytes, held (.sSend m) s = true ↔ sMsgReady s = false) ∧
    (∀ (i : Instr) (d : Bytes), Expected.toReceiver i = some d → (held i s = true ↔ rRxReady s = false)) ∧
    (∀ i : Instr, waits i s = true ↔ rRxReady s = true ∧ ∃ d : Bytes, Expected.toReceiver i = some d ∧
      (decodeDatagram s.cfg d).valid = true ∧ (decodeDatagram s.cfg d).seqNum = s.R.expSeq ∧
      s.ports.rDlvReady = false) ∧
    (sMsgReady s = true ↔ s.S.state = .ready) ∧ (sFatal s = true ↔ s.S.state = .fatal) ∧ sRxReady s = true ∧
    (rRxReady s = true ↔ s.R.fatal = false ∧ s.rBusy = none) ∧ rFatal s = s.R.fatal ∧ cReqReady s = true

/-- 60_exceptions.md §3 (R280), 30_encoding.md §3 (R105, R106): which port offer a step takes: reset before an inbound
datagram, that before `tick`, that before a message; an offer whose port is not ready lets the others pass; the codec and
the register port are always ready; whatever a step runs, from a port or from the trace, is within the operand limits of
30_encoding.md R101. That the sender's datagram comes before the receiver's, the codec and register
ports after the engines' and the trace last, none of which R280 orders, is the model's (log 10); that the other offers
stay beside `rst` and are taken after it is log 21; the form of a receiver transaction in progress is log 26. -/
def Obligations.PortOffersByPriority : Prop :=
  (∀ (s u : State) (i : Instr), fetch s = .run i u ∨ fetch s = .start i u → i.wf = true) ∧
  ∀ (s : State) (d m : Bytes) (q : CodecReq) (a : BitVec 4), s.ports.wf = true →
    let engines := s.ports.rst = false ∧ Expected.noDelivery s
    let receiver := engines ∧ s.ports.sRx = none
    let ticks := receiver ∧ (rRxReady s = false ∨ s.ports.rRx = none)
    let messages := ticks ∧ s.ports.tick = false
    let codec := messages ∧ (s.S.state ≠ .ready ∨ s.ports.sMsg = none)
    (s.ports.rst = true →
      step s = complete (exec .rst { s with ports := { s.ports with rst := false } })) ∧
    (s.ports.rst = false → s.ports.rDlvReady = true → s.rBusy = some d →
      step s = .next (finish
        (Expected.received { s with rBusy := none, traceWaits := false } true s.R.expSeq d))) ∧
    (engines → s.ports.sRx = some d →
      step s = complete (exec (.sResp d) { s with ports := { s.ports with sRx := none } })) ∧
    (receiver → rRxReady s = true → s.ports.rRx = some d → waits (.rDgram d) s = false →
      step s = complete (exec (.rDgram d) { s with ports := { s.ports with rRx := none } })) ∧
    (receiver → rRxReady s = true → s.ports.rRx = some d → waits (.rDgram d) s = true →
      step s = exec (.rDgram d) { s with ports := { s.ports with rRx := none } }) ∧
    (ticks → s.ports.tick = true →
      step s = complete (exec .sTick { s with ports := { s.ports with tick := false } })) ∧
    (messages → s.S.state = .ready → s.ports.sMsg = some m →
      step s = complete (exec (.sSend m) { s with ports := { s.ports with sMsg := none } })) ∧
    (codec → s.ports.cReq = some q →
      step s = complete (exec q.instr { s with ports := { s.ports with cReq := none } })) ∧
    (codec → s.ports.cReq = none → s.ports.hRd = some a →
      step s = complete (exec (.hRead a) { s with ports := { s.ports with hRd := none } })) ∧
    (codec → s.ports.cReq = none → s.ports.hRd = none → fetch s = fetchTrace s)

/-- 60_exceptions.md §3 (R280): a correct ack that coincides with the timeout tick confirms the round, and nothing is
retransmitted. -/
def Obligations.AckBeatsTimeoutTick : Prop :=
  ∀ (d : Bytes) (s : State), Expected.noDelivery s → s.ports.rst = false → s.ports.sRx = some d →
    s.ports.rRx = none →
    s.ports.tick = true → s.S.state = .waitAck → s.S.timerArmed = true →
    s.S.timerCnt + 1#16 = s.cfg.timeoutTicks → Expected.good s.cfg d →
    (u16be d 10).getLsbD 0 = s.S.curSeq →
      ∃ t : State, Host.Core.run Sys2Proof.core 2 s = .next t ∧ t.S.state = .ready ∧
        t.S.curSeq = (!s.S.curSeq) ∧ t.S.retx = s.S.retx ∧ sentDatagrams t.log = sentDatagrams s.log ∧
        t.ports.tick = false

/-- 44_host.md §3 (R256): running the machine step by step applies a trace as R256 says. A trace that ends is applied
after as many steps as it has records; a stuck one reaches a state, with a record left or waiting, that no further step
changes. That a held record is a next state equal to the state before is the model's form of a hold (log 6), and so is
the record that waits for the application (log 26). The premise is that nothing is offered and no transaction is in
progress. -/
def Obligations.SteppingAppliesTrace : Prop :=
  ∀ s : State, Expected.quiet s → s.rBusy = none → s.traceWaits = false →
    (∀ (is : List Instr) (t : State), decodeTrace s.trace = .ok is → runTrace s.trace s = .ended t →
      Host.Core.run Sys2Proof.core is.length s = .next { t with trace := [] }) ∧
    (runTrace s.trace s = .stuck →
      ∃ (k : Nat) (t : State), Host.Core.run Sys2Proof.core k s = .next t ∧ (t.trace ≠ [] ∨ t.traceWaits = true) ∧
        ∀ n : Nat, Host.Core.run Sys2Proof.core n t = .next t)

/-- 00_scope.md §3 (R6), 44_host.md R252: no step changes a parameter. -/
def Obligations.ParametersNeverChange : Prop :=
  ∀ s t : State, step s = .next t → t.cfg = s.cfg

/-- The invariants of 10_state.md R27 and R31, with the bounds and cause codes that Safety.lean adds, hold after reset
with any legal parameters, and in `State.reset`. -/
def Obligations.ResetMeetsInvariant : Prop :=
  (∀ c : Config, c.wf = true → (State.resetWith c).Inv) ∧ State.reset.Inv

/-- Every step, from any state that meets the invariant, reaches a state that meets it. -/
def Obligations.StepKeepsInvariant : Prop :=
  ∀ s t : State, s.Inv → step s = .next t → t.Inv

/-- 10_state.md R27 and R31: the invariants in every reachable state. -/
def Obligations.ReachableStatesKeepSpecInvariants : Prop :=
  ∀ s : State, Reachable s →
    (s.S.state = .ready → s.S.timerArmed = false) ∧
    (s.S.state = .waitAck → s.S.timerArmed = true ∧ s.S.timerCnt.toNat < s.cfg.timeoutTicks.toNat) ∧
    (s.S.state = .waitAck → 12 ≤ s.S.outLen.toNat ∧ (s.S.outBuf.getD 11 0xFF#8).getLsbD 1 = false ∧
      (s.S.outBuf.getD 11 0xFF#8).getLsbD 0 = s.S.curSeq) ∧
    (s.S.state = .waitAck → verify s.S.outBuf = true) ∧
    s.R.lastAck = !s.R.expSeq

/-- The protocol over one lossless round (43_sender.md R210, R214; 42_receiver.md R184): a message sent by a ready sender
in step with its receiver is delivered once, confirmed, and leaves the pair in step on the next seqNum. -/
def Obligations.LosslessRoundDelivers : Prop :=
  ∀ (m : Bytes) (s : State), s.S.state = .ready → s.R.fatal = false → s.S.curSeq = s.R.expSeq →
    s.failS = false → s.failR = false → s.rBusy = none → s.ports.rDlvReady = true →
    m.length ≤ s.cfg.maxPayload.val →
      ∃ (t u v : State) (data ack : Bytes),
        exec (.sSend m) s = .next t ∧ sentDatagrams t.log = sentDatagrams s.log ++ [data] ∧
        exec (.rDgram data) t = .next u ∧ ackDatagrams u.log = ackDatagrams s.log ++ [ack] ∧
        exec (.sResp ack) u = .next v ∧
        deliveries v.log = deliveries s.log ++ [m] ∧ (s.recNo, Event.sDone) ∈ v.log ∧
        v.S.state = .ready ∧ v.S.curSeq = (!s.S.curSeq) ∧ v.S.curSeq = v.R.expSeq ∧ v.S.retx = 0#16

/-- Loss recovery over one round (43_sender.md R219, 42_receiver.md R190): a sender that waits retransmits at the timeout;
the copy reaches a receiver that took the first one, is not delivered again, and its ack confirms the round. -/
def Obligations.RetransmissionRecoversLostAck : Prop :=
  ∀ s : State, s.Inv → s.S.state = .waitAck → s.R.fatal = false → s.S.curSeq ≠ s.R.expSeq →
    s.failS = false → s.failR = false → s.rBusy = none → s.S.timerCnt + 1#16 = s.cfg.timeoutTicks →
      ∃ (t u v : State) (ack : Bytes),
        exec .sTick s = .next t ∧ sentDatagrams t.log = sentDatagrams s.log ++ [s.S.outBuf] ∧
        exec (.rDgram s.S.outBuf) t = .next u ∧ ackDatagrams u.log = ackDatagrams s.log ++ [ack] ∧
        exec (.sResp ack) u = .next v ∧
        deliveries v.log = deliveries s.log ∧ v.S.state = .ready ∧ v.S.curSeq = v.R.expSeq

/-- 70_reset_and_hazards.md §3 (R311), 44_host.md R259: the accept branch does not complete until the application takes the
payload. A transaction that waits begins with a datagram in order, from the port or from the trace, and changes nothing
else. Until the payload is taken it is offered, the receiver takes no datagram, transmits no ack and keeps its state, and
only reset ends the transaction; when it is taken, the delivery comes before the one ack. That the payload is kept as
`rBusy` meanwhile, and how the trace is held, is the model's (log 26). -/
def Obligations.UntakenPayloadHoldsReceiver : Prop :=
  ∀ s t : State, step s = .next t →
    (∀ p : Bytes, s.rBusy = none → t.rBusy = some p →
      (∃ d : Bytes, (decodeDatagram s.cfg d).valid = true ∧ (decodeDatagram s.cfg d).seqNum = s.R.expSeq ∧
        (decodeDatagram s.cfg d).payload = p ∧
        ((s.ports.rRx = some d ∧ t.ports.rRx = none ∧ t.trace = s.trace) ∨
          (decode .trace s.trace = .ok (.rDgram d, t.trace) ∧ t.traceWaits = true ∧ t.ports = s.ports))) ∧
      s.ports.rDlvReady = false ∧ rRxReady s = true ∧ t.R = s.R ∧ t.log = s.log ∧ t.recNo = s.recNo) ∧
    (∀ p : Bytes, s.rBusy = some p → s.ports.rDlvReady = false →
      rRxReady s = false ∧ rDlvOffered s = some p ∧
      ackDatagrams t.log = ackDatagrams s.log ∧ deliveries t.log = deliveries s.log ∧
      ((t.rBusy = some p ∧ t.R = s.R ∧ (s.traceWaits = true → t.trace = s.trace)) ∨
        ((s.ports.rst = true ∨ (s.traceWaits = false ∧ s.trace.head? = some 0xFF#8)) ∧ t.rBusy = none ∧
          t.R = Receiver.reset))) ∧
    (∀ p : Bytes, s.rBusy = some p → s.ports.rDlvReady = true → s.ports.rst = false →
      t.rBusy = none ∧ t.traceWaits = false ∧ t.R.expSeq = (!s.R.expSeq) ∧ t.R.lastAck = s.R.expSeq ∧
      t.recNo = s.recNo + 1 ∧
      t.log = Expected.logged s ([.rDlv p, .rTx (encodePacket s.cfg [] true s.R.expSeq)] ++
        if s.failR = true then [.fatal .receiver] else []))
end

