-- ==== Sys2Proof/Laws/Bytes.lean ====
section
/-! SUPPORT. The byte order and the packed header: what is written is read back (20_memory.md R62, R64). -/

namespace Sys2Proof

/-- The two bytes of `be16` give their word back. -/
@[simp] theorem word16_be16 (v : Word16) : word16 (v.extractLsb' 8 8) (v.extractLsb' 0 8) = v := by
  apply BitVec.eq_of_getLsbD_eq
  intro i hi
  simp only [word16, BitVec.getLsbD_append, BitVec.getLsbD_extractLsb']
  by_cases h : i < 8
  · simp [h]
  · have h8 : i - 8 < 8 := by omega
    have hs : 8 + (i - 8) = i := by omega
    simp [h, h8, hs]

/-- The word at an offset that holds `be16` of it. -/
theorem u16be_be16 (pre post : Bytes) (v : Word16) : u16be (pre ++ be16 v ++ post) pre.length = v := by
  simp [u16be, be16]

/-- The fields of a packed header (R91). -/
@[simp] theorem headerLength_packHeader (l : BitVec 14) (a q : Bool) : headerLength (packHeader l a q) = l := by
  apply BitVec.eq_of_getLsbD_eq
  intro i hi
  simp only [headerLength, packHeader, BitVec.getLsbD_append, BitVec.getLsbD_extractLsb']
  have h1 : ¬ 2 + i < 1 := by omega
  simp [hi, h1]

@[simp] theorem headerAck_packHeader (l : BitVec 14) (a q : Bool) : headerAck (packHeader l a q) = a := by
  simp only [headerAck, packHeader, BitVec.getLsbD_append]; simp

@[simp] theorem headerSeq_packHeader (l : BitVec 14) (a q : Bool) : headerSeq (packHeader l a q) = q := by
  simp only [headerSeq, packHeader, BitVec.getLsbD_append]; simp

/-- A header is its fields packed. -/
theorem packHeader_fields (h : Word16) : packHeader (headerLength h) (headerAck h) (headerSeq h) = h := by
  apply BitVec.eq_of_getLsbD_eq
  intro i hi
  simp only [packHeader, headerLength, headerAck, headerSeq, BitVec.getLsbD_append, BitVec.getLsbD_extractLsb']
  rcases i with _ | _ | i
  · simp
  · simp
  · have h3 : 2 + i = i + 1 + 1 := by omega
    have h4 : i < 14 := by omega
    simp [h3, h4]

/-- The low two bits of a packed header are its class bits (30_encoding.md R94). -/
theorem packHeader_low (l : BitVec 14) (a q : Bool) :
    packHeader l a q &&& 0x0003#16 = (BitVec.ofBool a ++ BitVec.ofBool q : BitVec (1 + 1)).setWidth 16 := by
  apply BitVec.eq_of_getLsbD_eq
  intro i hi
  simp only [packHeader, BitVec.getLsbD_and, BitVec.getLsbD_append, BitVec.getLsbD_setWidth]
  rcases i with _ | _ | i
  · simp
  · simp
  · have h3 : (0x0003#16).getLsbD (i + 1 + 1) = false := by
      have : i < 14 := by omega
      interval_cases i <;> decide
    simp [h3]

/-- The header word of a packet on the wire is its packed header. -/
@[simp] theorem u16be_wireBytes (p : Packet) (a q : Bool) :
    u16be (wireBytes p a q) 10 = packHeader p.totalLength a q := by
  simp only [u16be, wireBytes, Magic.bytes, be16, List.cons_append, List.nil_append,
    List.getD_cons_succ, List.getD_cons_zero, word16_be16]

end Sys2Proof
end

