-- ==== Sys2Proof/Laws/State.lean ====
section
/-! SUPPORT. One lemma per field per update of the shared operations, each true by `rfl`, so that no later proof unfolds
a record update. -/

namespace Sys2Proof.Machine

/-! ## emit -/

@[simp] theorem emit_cfg (e : Event) (s : State) : (emit e s).cfg = s.cfg := rfl
@[simp] theorem emit_S (e : Event) (s : State) : (emit e s).S = s.S := rfl
@[simp] theorem emit_R (e : Event) (s : State) : (emit e s).R = s.R := rfl
@[simp] theorem emit_failS (e : Event) (s : State) : (emit e s).failS = s.failS := rfl
@[simp] theorem emit_failR (e : Event) (s : State) : (emit e s).failR = s.failR := rfl
@[simp] theorem emit_rBusy (e : Event) (s : State) : (emit e s).rBusy = s.rBusy := rfl
@[simp] theorem emit_traceWaits (e : Event) (s : State) : (emit e s).traceWaits = s.traceWaits := rfl
@[simp] theorem emit_ports (e : Event) (s : State) : (emit e s).ports = s.ports := rfl
@[simp] theorem emit_trace (e : Event) (s : State) : (emit e s).trace = s.trace := rfl
@[simp] theorem emit_log (e : Event) (s : State) : (emit e s).log = s.log ++ [(s.recNo, e)] := rfl
@[simp] theorem emit_recNo (e : Event) (s : State) : (emit e s).recNo = s.recNo := rfl
@[simp] theorem emit_draws (e : Event) (s : State) : (emit e s).draws = s.draws := rfl

/-! ## deliver -/

@[simp] theorem deliver_cfg (p : Bytes) (s : State) : (deliver p s).cfg = s.cfg := rfl
@[simp] theorem deliver_S (p : Bytes) (s : State) : (deliver p s).S = s.S := rfl
@[simp] theorem deliver_R (p : Bytes) (s : State) : (deliver p s).R = s.R := rfl
@[simp] theorem deliver_failS (p : Bytes) (s : State) : (deliver p s).failS = s.failS := rfl
@[simp] theorem deliver_failR (p : Bytes) (s : State) : (deliver p s).failR = s.failR := rfl
@[simp] theorem deliver_rBusy (p : Bytes) (s : State) : (deliver p s).rBusy = s.rBusy := rfl
@[simp] theorem deliver_traceWaits (p : Bytes) (s : State) : (deliver p s).traceWaits = s.traceWaits := rfl
@[simp] theorem deliver_ports (p : Bytes) (s : State) : (deliver p s).ports = s.ports := rfl
@[simp] theorem deliver_trace (p : Bytes) (s : State) : (deliver p s).trace = s.trace := rfl
@[simp] theorem deliver_log (p : Bytes) (s : State) : (deliver p s).log = s.log ++ [(s.recNo, .rDlv p)] := rfl
@[simp] theorem deliver_recNo (p : Bytes) (s : State) : (deliver p s).recNo = s.recNo := rfl
@[simp] theorem deliver_draws (p : Bytes) (s : State) : (deliver p s).draws = s.draws := rfl

/-! ## respondCodec -/

@[simp] theorem respondCodec_cfg (b : Bytes) (s : State) : (respondCodec b s).cfg = s.cfg := rfl
@[simp] theorem respondCodec_S (b : Bytes) (s : State) : (respondCodec b s).S = s.S := rfl
@[simp] theorem respondCodec_R (b : Bytes) (s : State) : (respondCodec b s).R = s.R := rfl
@[simp] theorem respondCodec_failS (b : Bytes) (s : State) : (respondCodec b s).failS = s.failS := rfl
@[simp] theorem respondCodec_failR (b : Bytes) (s : State) : (respondCodec b s).failR = s.failR := rfl
@[simp] theorem respondCodec_rBusy (b : Bytes) (s : State) : (respondCodec b s).rBusy = s.rBusy := rfl
@[simp] theorem respondCodec_traceWaits (b : Bytes) (s : State) : (respondCodec b s).traceWaits = s.traceWaits := rfl
@[simp] theorem respondCodec_ports (b : Bytes) (s : State) : (respondCodec b s).ports = s.ports := rfl
@[simp] theorem respondCodec_trace (b : Bytes) (s : State) : (respondCodec b s).trace = s.trace := rfl
@[simp] theorem respondCodec_log (b : Bytes) (s : State) : (respondCodec b s).log = s.log ++ [(s.recNo, .cRsp b)] := rfl
@[simp] theorem respondCodec_recNo (b : Bytes) (s : State) : (respondCodec b s).recNo = s.recNo := rfl
@[simp] theorem respondCodec_draws (b : Bytes) (s : State) : (respondCodec b s).draws = s.draws := rfl

/-! ## transmit, the state after it on s_tx -/

@[simp] theorem transmit_sender_cfg (b : Bytes) (s : State) : ((transmit .sender b s).2).cfg = s.cfg := rfl
@[simp] theorem transmit_sender_S (b : Bytes) (s : State) : ((transmit .sender b s).2).S = s.S := rfl
@[simp] theorem transmit_sender_R (b : Bytes) (s : State) : ((transmit .sender b s).2).R = s.R := rfl
@[simp] theorem transmit_sender_failS (b : Bytes) (s : State) : ((transmit .sender b s).2).failS = false := rfl
@[simp] theorem transmit_sender_failR (b : Bytes) (s : State) : ((transmit .sender b s).2).failR = s.failR := rfl
@[simp] theorem transmit_sender_rBusy (b : Bytes) (s : State) : ((transmit .sender b s).2).rBusy = s.rBusy := rfl
@[simp] theorem transmit_sender_traceWaits (b : Bytes) (s : State) : ((transmit .sender b s).2).traceWaits = s.traceWaits := rfl
@[simp] theorem transmit_sender_ports (b : Bytes) (s : State) : ((transmit .sender b s).2).ports = s.ports := rfl
@[simp] theorem transmit_sender_trace (b : Bytes) (s : State) : ((transmit .sender b s).2).trace = s.trace := rfl
@[simp] theorem transmit_sender_log (b : Bytes) (s : State) : ((transmit .sender b s).2).log = s.log ++ [(s.recNo, .sTx b)] := rfl
@[simp] theorem transmit_sender_recNo (b : Bytes) (s : State) : ((transmit .sender b s).2).recNo = s.recNo := rfl
@[simp] theorem transmit_sender_draws (b : Bytes) (s : State) : ((transmit .sender b s).2).draws = s.draws := rfl

/-! ## transmit, the state after it on r_tx -/

@[simp] theorem transmit_receiver_cfg (b : Bytes) (s : State) : ((transmit .receiver b s).2).cfg = s.cfg := rfl
@[simp] theorem transmit_receiver_S (b : Bytes) (s : State) : ((transmit .receiver b s).2).S = s.S := rfl
@[simp] theorem transmit_receiver_R (b : Bytes) (s : State) : ((transmit .receiver b s).2).R = s.R := rfl
@[simp] theorem transmit_receiver_failS (b : Bytes) (s : State) : ((transmit .receiver b s).2).failS = s.failS := rfl
@[simp] theorem transmit_receiver_failR (b : Bytes) (s : State) : ((transmit .receiver b s).2).failR = false := rfl
@[simp] theorem transmit_receiver_rBusy (b : Bytes) (s : State) : ((transmit .receiver b s).2).rBusy = s.rBusy := rfl
@[simp] theorem transmit_receiver_traceWaits (b : Bytes) (s : State) : ((transmit .receiver b s).2).traceWaits = s.traceWaits := rfl
@[simp] theorem transmit_receiver_ports (b : Bytes) (s : State) : ((transmit .receiver b s).2).ports = s.ports := rfl
@[simp] theorem transmit_receiver_trace (b : Bytes) (s : State) : ((transmit .receiver b s).2).trace = s.trace := rfl
@[simp] theorem transmit_receiver_log (b : Bytes) (s : State) : ((transmit .receiver b s).2).log = s.log ++ [(s.recNo, .rTx b)] := rfl
@[simp] theorem transmit_receiver_recNo (b : Bytes) (s : State) : ((transmit .receiver b s).2).recNo = s.recNo := rfl
@[simp] theorem transmit_receiver_draws (b : Bytes) (s : State) : ((transmit .receiver b s).2).draws = s.draws := rfl

/-! ## raiseFatal, sender -/

@[simp] theorem raiseFatal_sender_cfg (s : State) : (raiseFatal .sender s).cfg = s.cfg := rfl
@[simp] theorem raiseFatal_sender_S (s : State) : (raiseFatal .sender s).S = { s.S.disarm with state := .fatal, last := .fatal } := rfl
@[simp] theorem raiseFatal_sender_R (s : State) : (raiseFatal .sender s).R = s.R := rfl
@[simp] theorem raiseFatal_sender_failS (s : State) : (raiseFatal .sender s).failS = s.failS := rfl
@[simp] theorem raiseFatal_sender_failR (s : State) : (raiseFatal .sender s).failR = s.failR := rfl
@[simp] theorem raiseFatal_sender_rBusy (s : State) : (raiseFatal .sender s).rBusy = s.rBusy := rfl
@[simp] theorem raiseFatal_sender_traceWaits (s : State) : (raiseFatal .sender s).traceWaits = s.traceWaits := rfl
@[simp] theorem raiseFatal_sender_ports (s : State) : (raiseFatal .sender s).ports = s.ports := rfl
@[simp] theorem raiseFatal_sender_trace (s : State) : (raiseFatal .sender s).trace = s.trace := rfl
@[simp] theorem raiseFatal_sender_log (s : State) : (raiseFatal .sender s).log = s.log ++ [(s.recNo, .fatal .sender)] := rfl
@[simp] theorem raiseFatal_sender_recNo (s : State) : (raiseFatal .sender s).recNo = s.recNo := rfl
@[simp] theorem raiseFatal_sender_draws (s : State) : (raiseFatal .sender s).draws = s.draws := rfl

/-! ## raiseFatal, receiver -/

@[simp] theorem raiseFatal_receiver_cfg (s : State) : (raiseFatal .receiver s).cfg = s.cfg := rfl
@[simp] theorem raiseFatal_receiver_S (s : State) : (raiseFatal .receiver s).S = s.S := rfl
@[simp] theorem raiseFatal_receiver_R (s : State) : (raiseFatal .receiver s).R = { s.R with fatal := true, last := .fatal } := rfl
@[simp] theorem raiseFatal_receiver_failS (s : State) : (raiseFatal .receiver s).failS = s.failS := rfl
@[simp] theorem raiseFatal_receiver_failR (s : State) : (raiseFatal .receiver s).failR = s.failR := rfl
@[simp] theorem raiseFatal_receiver_rBusy (s : State) : (raiseFatal .receiver s).rBusy = s.rBusy := rfl
@[simp] theorem raiseFatal_receiver_traceWaits (s : State) : (raiseFatal .receiver s).traceWaits = s.traceWaits := rfl
@[simp] theorem raiseFatal_receiver_ports (s : State) : (raiseFatal .receiver s).ports = s.ports := rfl
@[simp] theorem raiseFatal_receiver_trace (s : State) : (raiseFatal .receiver s).trace = s.trace := rfl
@[simp] theorem raiseFatal_receiver_log (s : State) : (raiseFatal .receiver s).log = s.log ++ [(s.recNo, .fatal .receiver)] := rfl
@[simp] theorem raiseFatal_receiver_recNo (s : State) : (raiseFatal .receiver s).recNo = s.recNo := rfl
@[simp] theorem raiseFatal_receiver_draws (s : State) : (raiseFatal .receiver s).draws = s.draws := rfl

/-! ## resetEngines -/

@[simp] theorem resetEngines_cfg (s : State) : (resetEngines s).cfg = s.cfg := rfl
@[simp] theorem resetEngines_S (s : State) : (resetEngines s).S = Sender.reset (resetOutBuf s.cfg s.draws) := rfl
@[simp] theorem resetEngines_R (s : State) : (resetEngines s).R = Receiver.reset := rfl
@[simp] theorem resetEngines_failS (s : State) : (resetEngines s).failS = false := rfl
@[simp] theorem resetEngines_failR (s : State) : (resetEngines s).failR = false := rfl
@[simp] theorem resetEngines_rBusy (s : State) : (resetEngines s).rBusy = none := rfl
@[simp] theorem resetEngines_traceWaits (s : State) : (resetEngines s).traceWaits = false := rfl
@[simp] theorem resetEngines_ports (s : State) : (resetEngines s).ports = s.ports := rfl
@[simp] theorem resetEngines_trace (s : State) : (resetEngines s).trace = s.trace := rfl
@[simp] theorem resetEngines_log (s : State) : (resetEngines s).log = s.log := rfl
@[simp] theorem resetEngines_recNo (s : State) : (resetEngines s).recNo = s.recNo := rfl
@[simp] theorem resetEngines_draws (s : State) : (resetEngines s).draws = s.draws + 1 := rfl

/-! ## finish -/

@[simp] theorem finish_cfg (s : State) : (finish s).cfg = s.cfg := rfl
@[simp] theorem finish_S (s : State) : (finish s).S = s.S := rfl
@[simp] theorem finish_R (s : State) : (finish s).R = s.R := rfl
@[simp] theorem finish_failS (s : State) : (finish s).failS = s.failS := rfl
@[simp] theorem finish_failR (s : State) : (finish s).failR = s.failR := rfl
@[simp] theorem finish_rBusy (s : State) : (finish s).rBusy = s.rBusy := rfl
@[simp] theorem finish_traceWaits (s : State) : (finish s).traceWaits = s.traceWaits := rfl
@[simp] theorem finish_ports (s : State) : (finish s).ports = s.ports := rfl
@[simp] theorem finish_trace (s : State) : (finish s).trace = s.trace := rfl
@[simp] theorem finish_log (s : State) : (finish s).log = s.log := rfl
@[simp] theorem finish_recNo (s : State) : (finish s).recNo = s.recNo + 1 := rfl
@[simp] theorem finish_draws (s : State) : (finish s).draws = s.draws := rfl

/-! ## arm -/

@[simp] theorem arm_state (x : Sender) : x.arm.state = x.state := rfl
@[simp] theorem arm_curSeq (x : Sender) : x.arm.curSeq = x.curSeq := rfl
@[simp] theorem arm_outBuf (x : Sender) : x.arm.outBuf = x.outBuf := rfl
@[simp] theorem arm_outLen (x : Sender) : x.arm.outLen = x.outLen := rfl
@[simp] theorem arm_timerArmed (x : Sender) : x.arm.timerArmed = true := rfl
@[simp] theorem arm_timerCnt (x : Sender) : x.arm.timerCnt = 0#16 := rfl
@[simp] theorem arm_retx (x : Sender) : x.arm.retx = x.retx := rfl
@[simp] theorem arm_last (x : Sender) : x.arm.last = x.last := rfl

/-! ## disarm -/

@[simp] theorem disarm_state (x : Sender) : x.disarm.state = x.state := rfl
@[simp] theorem disarm_curSeq (x : Sender) : x.disarm.curSeq = x.curSeq := rfl
@[simp] theorem disarm_outBuf (x : Sender) : x.disarm.outBuf = x.outBuf := rfl
@[simp] theorem disarm_outLen (x : Sender) : x.disarm.outLen = x.outLen := rfl
@[simp] theorem disarm_timerArmed (x : Sender) : x.disarm.timerArmed = false := rfl
@[simp] theorem disarm_timerCnt (x : Sender) : x.disarm.timerCnt = 0#16 := rfl
@[simp] theorem disarm_retx (x : Sender) : x.disarm.retx = x.retx := rfl
@[simp] theorem disarm_last (x : Sender) : x.disarm.last = x.last := rfl

end Sys2Proof.Machine
end

