-- ==== Sys2Proof/Laws/Ops.lean ====
section
/-! SUPPORT. What each shared operation does, said once: its cases, each with the whole state after it. Callers cite
these instead of unfolding the operation. -/

namespace Sys2Proof.Machine

/-- The answer on `s_tx` is `err` exactly when the flag is pending. -/
theorem transmit_sender_answer (b : Bytes) (s : State) :
    (transmit .sender b s).1 = if s.failS then .err else .ok := rfl

/-- The answer on `r_tx` is `err` exactly when the flag is pending. -/
theorem transmit_receiver_answer (b : Bytes) (s : State) :
    (transmit .receiver b s).1 = if s.failR then .err else .ok := rfl

/-- `Retransmit` with the answer `ok`. -/
theorem retransmit_ok {s : State} (h : s.failS = false) :
    retransmit s = { s with
      S := { s.S with retx := satInc s.S.retx, timerArmed := true, timerCnt := 0#16, last := .timeout }
      failS := false
      log := s.log ++ [(s.recNo, .sTx s.S.outBuf)] } := by
  simp [retransmit, transmit, h, emit, Sender.arm]

/-- `Retransmit` with the answer `err`. -/
theorem retransmit_err {s : State} (h : s.failS = true) :
    retransmit s = { s with
      S := { s.S with
        retx := satInc s.S.retx, state := .fatal, timerArmed := false, timerCnt := 0#16, last := .fatal }
      failS := false
      log := s.log ++ [(s.recNo, .sTx s.S.outBuf)] ++ [(s.recNo, .fatal .sender)] } := by
  simp [retransmit, transmit, h, emit, raiseFatal, Sender.disarm]

/-- The ack with the answer `ok`. -/
theorem sendAck_ok {x : Bool} {s : State} (h : s.failR = false) :
    sendAck x s = { s with
      failR := false
      log := s.log ++ [(s.recNo, .rTx (encodePacket s.cfg [] true x))] } := by
  simp [sendAck, transmit, h, emit]

/-- The ack with the answer `err`. -/
theorem sendAck_err {x : Bool} {s : State} (h : s.failR = true) :
    sendAck x s = { s with
      R := { s.R with fatal := true, last := .fatal }
      failR := false
      log := s.log ++ [(s.recNo, .rTx (encodePacket s.cfg [] true x))] ++ [(s.recNo, .fatal .receiver)] } := by
  simp [sendAck, transmit, h, emit, raiseFatal]

/-- A message too long. -/
theorem sendMessage_tooLong {m : Bytes} {s : State} (h : s.cfg.maxPayload.val < m.length) :
    sendMessage m s = { s with
      S := { s.S with last := .tooLong }
      log := s.log ++ [(s.recNo, .sMsgErr)] } := by
  simp [sendMessage, h, emit]

/-- A message accepted, with the answer `ok`. -/
theorem sendMessage_ok {m : Bytes} {s : State} (h : m.length ≤ s.cfg.maxPayload.val) (hf : s.failS = false) :
    sendMessage m s = { s with
      S := { s.S with
        state := .waitAck
        outBuf := encodePacket s.cfg m false s.S.curSeq
        outLen := BitVec.ofNat 14 (encodePacket s.cfg m false s.S.curSeq).length
        timerArmed := true
        timerCnt := 0#16
        retx := 0#16
        last := .sent }
      failS := false
      log := s.log ++ [(s.recNo, .sTx (encodePacket s.cfg m false s.S.curSeq))] } := by
  simp [sendMessage, Nat.not_lt.mpr h, transmit, hf, emit, Sender.arm]

/-- A message accepted, with the answer `err`: the writes before the `Transmit` stay (60_exceptions.md R275). -/
theorem sendMessage_err {m : Bytes} {s : State} (h : m.length ≤ s.cfg.maxPayload.val) (hf : s.failS = true) :
    sendMessage m s = { s with
      S := { s.S with
        state := .fatal
        outBuf := encodePacket s.cfg m false s.S.curSeq
        outLen := BitVec.ofNat 14 (encodePacket s.cfg m false s.S.curSeq).length
        timerArmed := false
        timerCnt := 0#16
        retx := 0#16
        last := .fatal }
      failS := false
      log := s.log ++ [(s.recNo, .sTx (encodePacket s.cfg m false s.S.curSeq))] ++
        [(s.recNo, .fatal .sender)] } := by
  simp [sendMessage, Nat.not_lt.mpr h, transmit, hf, emit, raiseFatal, Sender.disarm]

/-- A response confirms or rearms; nothing else. -/
theorem handleResponse_cases (d : Bytes) (s : State) :
    (responseGood s.cfg (decodeDatagram s.cfg d) = true ∧ (decodeDatagram s.cfg d).seqNum = s.S.curSeq ∧
      handleResponse d s = { s with
        S := { s.S with
          curSeq := !s.S.curSeq, state := .ready, timerArmed := false, timerCnt := 0#16, last := .confirmed }
        log := s.log ++ [(s.recNo, .sDone)] }) ∨
    (¬ (responseGood s.cfg (decodeDatagram s.cfg d) = true ∧ (decodeDatagram s.cfg d).seqNum = s.S.curSeq) ∧
      handleResponse d s = { s with
        S := { s.S with
          timerArmed := true
          timerCnt := 0#16
          last := if responseGood s.cfg (decodeDatagram s.cfg d) then .staleAck else .corrupt } }) := by
  by_cases h : responseGood s.cfg (decodeDatagram s.cfg d) = true ∧ (decodeDatagram s.cfg d).seqNum = s.S.curSeq
  · exact .inl ⟨h.1, h.2, by simp [handleResponse, h.1, h.2, emit, Sender.disarm]⟩
  · refine .inr ⟨h, ?_⟩
    have : (responseGood s.cfg (decodeDatagram s.cfg d) && (decodeDatagram s.cfg d).seqNum == s.S.curSeq) = false := by
      simpa using h
    simp [handleResponse, this, Sender.arm]

/-- A tick is ignored, counted, or reaches the timeout; nothing else. -/
theorem senderTick_cases (s : State) :
    (¬ (s.S.state = .waitAck ∧ s.S.timerArmed = true) ∧ senderTick s = s) ∨
    (s.S.state = .waitAck ∧ s.S.timerArmed = true ∧ s.S.timerCnt + 1#16 ≠ s.cfg.timeoutTicks ∧
      senderTick s = { s with S := { s.S with timerCnt := s.S.timerCnt + 1#16 } }) ∨
    (s.S.state = .waitAck ∧ s.S.timerArmed = true ∧ s.S.timerCnt + 1#16 = s.cfg.timeoutTicks ∧
      senderTick s = retransmit { s with S := { s.S with timerCnt := s.S.timerCnt + 1#16 } }) := by
  by_cases h : s.S.state = .waitAck ∧ s.S.timerArmed = true
  · by_cases ht : s.S.timerCnt + 1#16 = s.cfg.timeoutTicks
    · exact .inr (.inr ⟨h.1, h.2, ht, by simp [senderTick, h, ht]⟩)
    · exact .inr (.inl ⟨h.1, h.2, ht, by simp [senderTick, h, ht]⟩)
  · exact .inl ⟨h, by simp [senderTick, h]⟩

/-- The three branches of the receiver, the third of which completes or waits; nothing else. -/
theorem receiveDatagram_cases (d : Bytes) (s : State) :
    ((decodeDatagram s.cfg d).valid = false ∧
      receiveDatagram d s = sendAck s.R.lastAck (receiveCorrupt s)) ∨
    ((decodeDatagram s.cfg d).valid = true ∧ (decodeDatagram s.cfg d).seqNum ≠ s.R.expSeq ∧
      receiveDatagram d s = sendAck (decodeDatagram s.cfg d).seqNum (receiveDuplicate s)) ∨
    ((decodeDatagram s.cfg d).valid = true ∧ (decodeDatagram s.cfg d).seqNum = s.R.expSeq ∧
      s.ports.rDlvReady = true ∧ receiveDatagram d s = completeAccept (decodeDatagram s.cfg d).payload s) ∨
    (acceptWaits d s = true ∧
      receiveDatagram d s = { s with rBusy := some (decodeDatagram s.cfg d).payload }) := by
  cases hv : (decodeDatagram s.cfg d).valid
  · exact .inl ⟨rfl, by simp [receiveDatagram, hv]⟩
  · by_cases hs : (decodeDatagram s.cfg d).seqNum = s.R.expSeq
    · cases hr : s.ports.rDlvReady
      · exact .inr (.inr (.inr ⟨by simp [acceptWaits, hv, hs, hr],
          by simp [receiveDatagram, hv, hs, acceptDatagram, hr]⟩))
      · exact .inr (.inr (.inl ⟨rfl, hs, rfl, by simp [receiveDatagram, hv, hs, acceptDatagram, hr]⟩))
    · exact .inr (.inl ⟨rfl, hs, by simp [receiveDatagram, hv, hs]⟩)

/-- When the receiver takes a datagram: out of FATAL, with no transaction in progress. -/
theorem rRxReady_eq_true {s : State} : rRxReady s = true ↔ s.R.fatal = false ∧ s.rBusy = none := by
  simp [rRxReady]

/-- When the accept branch would wait. -/
theorem acceptWaits_eq_true {d : Bytes} {s : State} :
    acceptWaits d s = true ↔ (decodeDatagram s.cfg d).valid = true ∧ (decodeDatagram s.cfg d).seqNum = s.R.expSeq ∧
      s.ports.rDlvReady = false := by
  simp [acceptWaits, and_assoc]

/-- A datagram at the receiver is held or handled; nothing else. -/
theorem receiverDatagram_cases (d : Bytes) (s : State) :
    (rRxReady s = false ∧ receiverDatagram d s = s) ∨
    (rRxReady s = true ∧ receiverDatagram d s = receiveDatagram d s) := by
  cases h : rRxReady s
  · exact .inl ⟨rfl, by simp [receiverDatagram, h]⟩
  · exact .inr ⟨rfl, by simp [receiverDatagram, h]⟩

/-- A datagram whose accept branch waits only becomes the transaction in progress. -/
theorem receiverDatagram_waits {d : Bytes} {s : State} (hr : rRxReady s = true) (hw : acceptWaits d s = true) :
    receiverDatagram d s = { s with rBusy := some (decodeDatagram s.cfg d).payload } := by
  obtain ⟨hv, hs, hd⟩ := acceptWaits_eq_true.mp hw
  simp [receiverDatagram, hr, receiveDatagram, hv, hs, acceptDatagram, hd]

end Sys2Proof.Machine
end

