-- ==== Sys2Proof/Laws/Memory.lean ====
section
/-! SUPPORT. The buffer operations (20_memory.md R61) and that every write of `S.outBuf` keeps it within its size. -/

namespace Sys2Proof.Machine

@[simp] theorem be16_length (v : Word16) : (be16 v).length = 2 := rfl

@[simp] theorem magic_bytes_length (m : Magic) : m.bytes.length = 8 := rfl

/-- The length of a packet on the wire. -/
theorem wireBytes_length (p : Packet) (a q : Bool) : (wireBytes p a q).length = 12 + p.payload.length := by
  simp [wireBytes]; omega

/-- The length of an encoded packet, whatever the payload. -/
theorem encodePacket_length (c : Config) (p : Bytes) (a q : Bool) :
    (encodePacket c p a q).length = 12 + p.length := by
  simp [encodePacket, wireBytes_length]

/-- A write within the buffer keeps its length. -/
theorem memWrite_length {buf v : Bytes} {addr : Nat} (h : memInRange buf addr v.length = true) :
    (memWrite buf addr v).length = buf.length := by
  simp [memInRange] at h
  simp [memWrite]; omega

/-- A write within the buffer keeps it within its size. -/
theorem memWrite_wf {c : Config} {buf v : Bytes} {addr : Nat} (h : memInRange buf addr v.length = true)
    (hw : Memory.wf c buf = true) : Memory.wf c (memWrite buf addr v) = true := by
  simpa [Memory.wf, memWrite_length h] using hw

/-- A read after a write to the same place gives the value written. -/
theorem memRead_memWrite_same {buf v : Bytes} {addr : Nat} (h : memInRange buf addr v.length = true) :
    memRead (memWrite buf addr v) addr v.length = v := by
  simp [memInRange] at h
  have ht : (buf.take addr).length = addr := by simp; omega
  simp [memRead, memWrite, List.append_assoc, ht]

/-- A write leaves every byte outside it alone. -/
theorem memWrite_getD_other {buf v : Bytes} {addr k : Nat} (h : memInRange buf addr v.length = true)
    (hk : k < addr ∨ addr + v.length ≤ k) (x : Byte) :
    (memWrite buf addr v).getD k x = buf.getD k x := by
  simp [memInRange] at h
  have ht : (buf.take addr).length = addr := by simp; omega
  simp only [memWrite, List.getD_eq_getElem?_getD, List.append_assoc]
  rcases hk with hk | hk
  · rw [List.getElem?_append_left (by omega), List.getElem?_take_of_lt hk]
  · rw [List.getElem?_append_right (by omega), ht, List.getElem?_append_right (by omega), List.getElem?_drop]
    congr 2
    omega

/-- The reset content of the buffer is within its size. -/
theorem resetOutBuf_wf (c : Config) (n : Nat) : Memory.wf c (resetOutBuf c n) = true := by
  simp [Memory.wf, resetOutBuf]

/-- So it is after `State.reset`. -/
theorem reset_buffer_wf : Memory.wf State.reset.cfg State.reset.S.outBuf = true := resetOutBuf_wf _ _

/-- A framed message is within the buffer's size. -/
theorem encodePacket_wf {c : Config} {p : Bytes} (h : p.length ≤ c.maxPayload.val) (a q : Bool) :
    Memory.wf c (encodePacket c p a q) = true := by
  simp [Memory.wf, encodePacket_length, Config.maxDgram, hdrLen]; omega

/-- Every header and payload read of `Decode` is in range (R61). -/
theorem decode_reads_in_range {c : Config} {b : Bytes} (h : sizeOk c b = true) :
    memInRange b 10 2 = true ∧ memInRange b hdrLen (b.length - hdrLen) = true := by
  simp [sizeOk, hdrLen] at h
  simp [memInRange, hdrLen]; omega

end Sys2Proof.Machine
end

