-- ==== Sys2Proof/Laws/PerInstr.lean ====
section
/-! SUPPORT. One family of statements about every instruction as syntax: its encoding matches its row of
spec/opcode_table.json. -/

namespace Sys2Proof.Laws.MatchesTable

/-- The byte string holds the row's fixed bits: a packet's header `H` under the mask 0x0003 (30_encoding.md R94), or a
record's code byte (R99). -/
def headerBits (b : Bytes) (k : Word16) : Prop := u16be b 10 &&& 0x0003#16 = k

/-- The encoding of the instruction matches its row. -/
def Statement : Instr → Prop
  | .dataSeq0 p => headerBits (encode (.dataSeq0 p)) 0x0000#16
  | .dataSeq1 p => headerBits (encode (.dataSeq1 p)) 0x0001#16
  | .ackSeq0 p => headerBits (encode (.ackSeq0 p)) 0x0002#16
  | .ackSeq1 p => headerBits (encode (.ackSeq1 p)) 0x0003#16
  | .sSend m => (encode (.sSend m)).head? = some 0x01#8
  | .sResp d => (encode (.sResp d)).head? = some 0x02#8
  | .sTick => (encode .sTick).head? = some 0x03#8
  | .rDgram d => (encode (.rDgram d)).head? = some 0x08#8
  | .cCsum b => (encode (.cCsum b)).head? = some 0x10#8
  | .cVerify b => (encode (.cVerify b)).head? = some 0x11#8
  | .cEncode a q p => (encode (.cEncode a q p)).head? = some 0x12#8
  | .cDecode b => (encode (.cDecode b)).head? = some 0x13#8
  | .hRead a => (encode (.hRead a)).head? = some 0x20#8
  | .sTxFail => (encode .sTxFail).head? = some 0x40#8
  | .rTxFail => (encode .rTxFail).head? = some 0x41#8
  | .rst => (encode .rst).head? = some 0xFF#8

theorem dataSeq0 (p : Packet) : Statement (.dataSeq0 p) := by
  simp [Statement, headerBits, encode, u16be_wireBytes, packHeader_low]

theorem dataSeq1 (p : Packet) : Statement (.dataSeq1 p) := by
  simp [Statement, headerBits, encode, u16be_wireBytes, packHeader_low]

theorem ackSeq0 (p : Packet) : Statement (.ackSeq0 p) := by
  simp [Statement, headerBits, encode, u16be_wireBytes, packHeader_low]

theorem ackSeq1 (p : Packet) : Statement (.ackSeq1 p) := by
  simp [Statement, headerBits, encode, u16be_wireBytes, packHeader_low]

theorem sSend (m : Bytes) : Statement (.sSend m) := rfl
theorem sResp (d : Bytes) : Statement (.sResp d) := rfl
theorem sTick : Statement .sTick := rfl
theorem rDgram (d : Bytes) : Statement (.rDgram d) := rfl
theorem cCsum (b : Bytes) : Statement (.cCsum b) := rfl
theorem cVerify (b : Bytes) : Statement (.cVerify b) := rfl
theorem cEncode (a q : Bool) (p : Bytes) : Statement (.cEncode a q p) := rfl
theorem cDecode (b : Bytes) : Statement (.cDecode b) := rfl
theorem hRead (a : BitVec 4) : Statement (.hRead a) := rfl
theorem sTxFail : Statement .sTxFail := rfl
theorem rTxFail : Statement .rTxFail := rfl
theorem rst : Statement .rst := rfl

end Sys2Proof.Laws.MatchesTable
end

