-- ==== Sys2Proof/Laws/Step.lean ====
section
/-! SUPPORT. What a step can do, said once: every instruction has a next state, and a step changes nothing, begins a
receiver transaction that waits, completes it, or runs one instruction in a state that differs from the one before in what
was taken only. -/

namespace Sys2Proof.Machine

/-- The next state of an instruction. -/
def execState : Instr → State → State
  | .dataSeq0 p, s => receiverDatagram (wireBytes p false false) s
  | .dataSeq1 p, s => receiverDatagram (wireBytes p false true) s
  | .ackSeq0 p, s => senderDatagram (wireBytes p true false) s
  | .ackSeq1 p, s => senderDatagram (wireBytes p true true) s
  | .sSend m, s => if s.S.state = .ready then sendMessage m s else s
  | .sResp d, s => senderDatagram d s
  | .sTick, s => senderTick s
  | .rDgram d, s => receiverDatagram d s
  | .cCsum b, s => respondCodec (csumResponse b) s
  | .cVerify b, s => respondCodec (verifyResponse b) s
  | .cEncode a q p, s => respondCodec (encodeResponse s.cfg a q p) s
  | .cDecode b, s => respondCodec (decodeResponse s.cfg b) s
  | .hRead a, s => emit (.hRdata (readReg s a)) s
  | .sTxFail, s => { s with failS := true }
  | .rTxFail, s => { s with failR := true }
  | .rst, s => resetEngines s

/-- No instruction faults or refuses. -/
theorem exec_eq_next (i : Instr) (s : State) : exec i s = .next (execState i s) := by
  cases i <;> rfl

/-- The inversion of `exec`. -/
theorem exec_next_iff {i : Instr} {s t : State} : exec i s = .next t ↔ t = execState i s := by
  rw [exec_eq_next]
  exact ⟨fun h => by injection h with h; exact h.symm, fun h => by rw [h]⟩

/-! ## The observation -/

/-- `t` has the observation of `s` with events of the current record added. -/
def Grows (s t : State) : Prop := ∃ es : List Event, t.log = s.log ++ es.map fun e => (s.recNo, e)

theorem Grows.of_eq {s t : State} (h : t.log = s.log) : Grows s t := ⟨[], by simp [h]⟩

theorem grows_emit (e : Event) (s : State) : Grows s (emit e s) := ⟨[e], rfl⟩

theorem grows_retransmit (s : State) : Grows s (retransmit s) := by
  cases h : s.failS
  · exact ⟨[.sTx s.S.outBuf], by rw [retransmit_ok h]; rfl⟩
  · exact ⟨[.sTx s.S.outBuf, .fatal .sender], by rw [retransmit_err h]; simp⟩

theorem grows_sendMessage (m : Bytes) (s : State) : Grows s (sendMessage m s) := by
  by_cases hl : s.cfg.maxPayload.val < m.length
  · exact ⟨[.sMsgErr], by rw [sendMessage_tooLong hl]; rfl⟩
  · have hl' := Nat.le_of_not_lt hl
    cases h : s.failS
    · exact ⟨[.sTx _], by rw [sendMessage_ok hl' h]; rfl⟩
    · exact ⟨[.sTx (encodePacket s.cfg m false s.S.curSeq), .fatal .sender], by rw [sendMessage_err hl' h]; simp⟩

theorem grows_senderDatagram (d : Bytes) (s : State) : Grows s (senderDatagram d s) := by
  unfold senderDatagram
  split
  · rcases handleResponse_cases d s with ⟨_, _, e⟩ | ⟨_, e⟩ <;> rw [e]
    · exact ⟨[.sDone], rfl⟩
    · exact .of_eq rfl
  · exact .of_eq rfl

theorem grows_senderTick (s : State) : Grows s (senderTick s) := by
  rcases senderTick_cases s with ⟨_, e⟩ | ⟨_, _, _, e⟩ | ⟨_, _, _, e⟩ <;> rw [e]
  · exact .of_eq rfl
  · exact .of_eq rfl
  · exact grows_retransmit _

theorem grows_sendAck (x : Bool) (s : State) : Grows s (sendAck x s) := by
  cases h : s.failR
  · exact ⟨[.rTx _], by rw [sendAck_ok h]; rfl⟩
  · exact ⟨[.rTx (encodePacket s.cfg [] true x), .fatal .receiver], by rw [sendAck_err h]; simp⟩

theorem grows_completeAccept (p : Bytes) (s : State) : Grows s (completeAccept p s) := by
  obtain ⟨es, h⟩ := grows_sendAck s.R.expSeq (receiveAccept s.R.expSeq p s)
  exact ⟨.rDlv p :: es, by rw [completeAccept, h]; simp [receiveAccept]⟩

theorem grows_receiverDatagram (d : Bytes) (s : State) : Grows s (receiverDatagram d s) := by
  rcases receiverDatagram_cases d s with ⟨_, e⟩ | ⟨_, e⟩ <;> rw [e]
  · exact .of_eq rfl
  · rcases receiveDatagram_cases d s with ⟨_, e⟩ | ⟨_, _, e⟩ | ⟨_, _, _, e⟩ | ⟨_, e⟩ <;> rw [e]
    · exact grows_sendAck _ (receiveCorrupt s)
    · exact grows_sendAck _ (receiveDuplicate s)
    · exact grows_completeAccept _ s
    · exact .of_eq rfl

/-- An instruction only adds events, each tagged with the current record (44_host.md R257). -/
theorem grows_execState (i : Instr) (s : State) : Grows s (execState i s) := by
  cases i <;> first
    | exact grows_receiverDatagram _ s
    | exact grows_senderDatagram _ s
    | exact grows_senderTick s
    | exact grows_emit _ s
    | exact .of_eq rfl
    | (simp only [execState]; split <;> first | exact grows_sendMessage _ s | exact .of_eq rfl)

/-! ## What a step takes -/

/-- A port gives a byte string exactly when it is offered and within the operand limit. -/
@[simp] theorem carried_eq_some {o : Option Bytes} {d : Bytes} :
    carried o = some d ↔ o = some d ∧ operandOk d = true := by
  simp [carried, Option.filter_eq_some_iff]

/-- Offers within the operand limits stay so when one is taken. -/
theorem ports_wf_taken {p : Ports} (h : p.wf = true) :
    Ports.wf { p with rst := false } = true ∧ Ports.wf { p with sRx := none } = true ∧
    Ports.wf { p with rRx := none } = true ∧ Ports.wf { p with tick := false } = true ∧
    Ports.wf { p with sMsg := none } = true ∧ Ports.wf { p with cReq := none } = true ∧
    Ports.wf { p with hRd := none } = true := by
  simp only [Ports.wf, Bool.and_eq_true] at h ⊢
  obtain ⟨⟨⟨h1, h2⟩, h3⟩, h4⟩ := h
  simp [h1, h2, h3, h4]

/-- A datagram that waits is one for the receiver, which is ready, and whose accept branch waits. -/
theorem waits_eq_true {i : Instr} {s : State} :
    waits i s = true ↔ rRxReady s = true ∧ ∃ d, receiverBytes i = some d ∧ acceptWaits d s = true := by
  cases h : receiverBytes i <;> simp [waits, h]

/-- What an instruction that waits does: its payload becomes that of the transaction in progress. -/
theorem execState_waits {i : Instr} {s : State} (h : waits i s = true) :
    ∃ d, receiverBytes i = some d ∧ acceptWaits d s = true ∧ rRxReady s = true ∧
      execState i s = { s with rBusy := some (decodeDatagram s.cfg d).payload } := by
  obtain ⟨hr, d, hd, hw⟩ := waits_eq_true.mp h
  refine ⟨d, hd, hw, hr, ?_⟩
  cases i <;> simp [receiverBytes] at hd <;> subst hd <;> exact receiverDatagram_waits hr hw

/-- Taking an instruction begins it, when it waits, or runs it. -/
theorem take_cases (i : Instr) (s : State) :
    (waits i s = true ∧ take i s = .start i s) ∨ (waits i s = false ∧ take i s = .run i s) := by
  cases h : waits i s <;> simp [take, h]

/-- What a sender datagram is never waits. -/
theorem waits_senderInstr (d : Bytes) (s : State) : waits (senderInstr d) s = false := by
  unfold senderInstr
  split <;> simp [waits, receiverBytes]

/-- A codec request never waits. -/
theorem waits_codec (q : CodecReq) (s : State) : waits q.instr s = false := by
  unfold CodecReq.instr
  split <;> simp [waits, receiverBytes]

/-- What a step finds on the ports: the payload of the transaction in progress is taken, or an instruction begins or runs
in a state from which its offer is gone. Nothing else changes. -/
theorem offered_cases {s : State} {f : Fetched} (h : offered s = some f) :
    (∃ q : Bytes, s.rBusy = some q ∧ s.ports.rst = false ∧ s.ports.rDlvReady = true ∧
      f = .deliver q { s with rBusy := none, traceWaits := false }) ∨
    (∃ (i : Instr) (p : Ports), (s.ports.wf = true → p.wf = true) ∧
      ((waits i { s with ports := p } = false ∧ f = .run i { s with ports := p }) ∨
        (waits i { s with ports := p } = true ∧ f = .start i { s with ports := p }))) := by
  unfold offered at h
  split at h
  · cases h; exact .inr ⟨_, _, fun hw => (ports_wf_taken hw).1, .inl ⟨by simp [waits, receiverBytes], rfl⟩⟩
  · rename_i hrst
    split at h
    · rename_i q hq
      unfold rDlvTaken at hq
      split at hq
      · rename_i hr
        cases h
        exact .inl ⟨q, hq, by simpa using hrst, hr, rfl⟩
      · cases hq
    · split at h
      · cases h; exact .inr ⟨_, _, fun hw => (ports_wf_taken hw).2.1, .inl ⟨waits_senderInstr _ _, rfl⟩⟩
      · split at h
        · rename_i d hd
          cases h
          refine .inr ⟨receiverInstr d, { s.ports with rRx := none }, fun hw => (ports_wf_taken hw).2.2.1, ?_⟩
          rcases take_cases (receiverInstr d) { s with ports := { s.ports with rRx := none } } with ⟨hw, e⟩ | ⟨hw, e⟩
          · exact .inr ⟨hw, e⟩
          · exact .inl ⟨hw, e⟩
        · split at h
          · cases h; exact .inr ⟨_, _, fun hw => (ports_wf_taken hw).2.2.2.1, .inl ⟨by simp [waits, receiverBytes], rfl⟩⟩
          · split at h
            · cases h; exact .inr ⟨_, _, fun hw => (ports_wf_taken hw).2.2.2.2.1, .inl ⟨by simp [waits, receiverBytes], rfl⟩⟩
            · split at h
              · cases h; exact .inr ⟨_, _, fun hw => (ports_wf_taken hw).2.2.2.2.2.1, .inl ⟨waits_codec _ _, rfl⟩⟩
              · split at h
                · cases h; exact .inr ⟨_, _, fun hw => (ports_wf_taken hw).2.2.2.2.2.2,
                  .inl ⟨by simp [waits, receiverBytes], rfl⟩⟩
                · cases h

/-- What is taken from the trace. -/
theorem fetchTrace_cases (s : State) :
    fetchTrace s = .idle ∨ fetchTrace s = .stuck ∨ (∃ e, fetchTrace s = .refuse e) ∨
    (s.traceWaits = false ∧ ∃ (i : Instr) (rest : Bytes), decode .trace s.trace = .ok (i, rest) ∧ held i s = false ∧
      ((waits i s = false ∧ fetchTrace s = .run i { s with trace := rest }) ∨
        (waits i s = true ∧ fetchTrace s = .start i { s with trace := rest, traceWaits := true }))) := by
  unfold fetchTrace
  split
  · exact .inr (.inl rfl)
  · rename_i hw
    split
    · exact .inl rfl
    · rename_i x xs ht
      split
      · exact .inr (.inr (.inl ⟨_, rfl⟩))
      · rename_i i rest hd
        split
        · exact .inr (.inl rfl)
        · rename_i hh
          refine .inr (.inr (.inr ⟨by simpa using hw, i, rest, by rw [ht, hd], by simpa using hh, ?_⟩))
          split
          · rename_i hs; exact .inr ⟨hs, rfl⟩
          · rename_i hs; exact .inl ⟨by simpa using hs, rfl⟩

/-- The inversion of `step`: nothing changes, the transaction in progress completes, an instruction runs, or one begins
and waits. What was taken is gone from the ports or from the trace. -/
theorem step_cases {s t : State} (h : step s = .next t) :
    t = s ∨
    (∃ q : Bytes, s.rBusy = some q ∧ s.ports.rst = false ∧ s.ports.rDlvReady = true ∧
      t = finish (completeAccept q { s with rBusy := none, traceWaits := false })) ∨
    (∃ (i : Instr) (p : Ports) (b : Bytes), fetch s = .run i { s with ports := p, trace := b } ∧
      (s.ports.wf = true → p.wf = true) ∧ waits i { s with ports := p, trace := b } = false ∧
      t = finish (execState i { s with ports := p, trace := b })) ∨
    (∃ (i : Instr) (p : Ports) (b : Bytes) (w : Bool), fetch s = .start i { s with ports := p, trace := b, traceWaits := w } ∧
      (s.ports.wf = true → p.wf = true) ∧ waits i { s with ports := p, trace := b, traceWaits := w } = true ∧
      t = execState i { s with ports := p, trace := b, traceWaits := w }) := by
  cases ho : offered s with
  | some f =>
    have hfs : fetch s = f := by simp [fetch, ho]
    simp only [step, hfs] at h
    rcases offered_cases ho with ⟨q, h1, h2, h3, rfl⟩ | ⟨i, p, hp, ⟨hw, rfl⟩ | ⟨hw, rfl⟩⟩
    · cases h; exact .inr (.inl ⟨q, h1, h2, h3, rfl⟩)
    · simp only [exec_eq_next] at h
      cases h; exact .inr (.inr (.inl ⟨i, p, s.trace, hfs, hp, hw, rfl⟩))
    · simp only [exec_eq_next] at h
      cases h; exact .inr (.inr (.inr ⟨i, p, s.trace, s.traceWaits, hfs, hp, hw, rfl⟩))
  | none =>
    have hfs : fetch s = fetchTrace s := by simp [fetch, ho]
    simp only [step, hfs] at h
    rcases fetchTrace_cases s with e | e | ⟨r, e⟩ | ⟨_, i, rest, _, _, ⟨hw, e⟩ | ⟨hw, e⟩⟩ <;> rw [e] at h
    · cases h; exact .inl rfl
    · cases h; exact .inl rfl
    · cases h
    · simp only [exec_eq_next] at h
      cases h; exact .inr (.inr (.inl ⟨i, s.ports, rest, by rw [hfs, e], id, hw, rfl⟩))
    · simp only [exec_eq_next] at h
      cases h; exact .inr (.inr (.inr ⟨i, s.ports, rest, true, by rw [hfs, e], id, hw, rfl⟩))

/-- A step never faults. -/
theorem step_never_faults (s : State) (f : Fault) : step s ≠ .fault f := nomatch f

end Sys2Proof.Machine
end

