-- ==== Sys2Proof/Tests/Slice0.lean ====
section
/-! SUPPORT. Tests. Expected values come from the spec's own vectors (95_test_vectors.md; the id stands at each test) and
encodings. After them, for every statement with hypotheses, a witness that meets them. -/

namespace Sys2Proof.Tests

open Sys2Proof.Machine

/-! ## Test data (95_test_vectors.md, opening; `MAGIC_T` is 00_scope.md R8) -/

def magicT : Magic := ⟨0x52#8, 0x44#8, 0x54#8, 0x33#8, 0x30#8, 0x30#8, 0x30#8, 0x30#8⟩

def cfgT : Config := ⟨magicT, ⟨16371, by decide⟩, 3#16, true⟩

/-- `MAX_PAYLOAD = 4`. -/
def cfg4 : Config := { cfgT with maxPayload := ⟨4, by decide⟩ }

def msg1 : Bytes := [0x6d#8, 0x73#8, 0x67#8, 0x31#8]

def msg2 : Bytes := [0x6d#8, 0x73#8, 0x67#8, 0x32#8]

/-- "msg12". -/
def msg12 : Bytes := msg1 ++ [0x32#8]

/-- `D0_msg1`. -/
def d0 : Bytes := magicT.bytes ++ [0x24#8, 0x43#8, 0x00#8, 0x40#8] ++ msg1

/-- `D1_msg2`. -/
def d1 : Bytes := magicT.bytes ++ [0x24#8, 0x41#8, 0x00#8, 0x41#8] ++ msg2

/-- `D0_msg1` with its last byte changed (DE-2). -/
def d0Bad : Bytes := magicT.bytes ++ [0x24#8, 0x43#8, 0x00#8, 0x40#8] ++ [0x6d#8, 0x73#8, 0x67#8, 0x30#8]

/-- EN-11, 17 bytes. -/
def d12 : Bytes := magicT.bytes ++ [0xf2#8, 0x3e#8, 0x00#8, 0x44#8] ++ msg12

def ack0 : Bytes := magicT.bytes ++ [0xf8#8, 0xf5#8, 0x00#8, 0x32#8]

def ack1 : Bytes := magicT.bytes ++ [0xf8#8, 0xf4#8, 0x00#8, 0x33#8]

def pkt0 : Packet := ⟨magicT, 0x2443#16, 16#14, msg1⟩

def pkt1 : Packet := ⟨magicT, 0x2441#16, 16#14, msg2⟩

def pktA0 : Packet := ⟨magicT, 0xf8f5#16, 12#14, []⟩

def pktA1 : Packet := ⟨magicT, 0xf8f4#16, 12#14, []⟩

/-- After reset, with the buffer content known. -/
def ready (c : Config) : State := { State.resetWith c with S := Sender.reset [] }

/-- A sender that has sent `D0_msg1` and waits, with the timer count `n` (TX-1). -/
def waiting (n : Word16) : State :=
  { ready cfgT with S := ⟨.waitAck, false, d0, 16#14, true, n, 0#16, .sent⟩ }

/-- A receiver that has accepted `D0_msg1`. -/
def odd : State := { ready cfgT with R := ⟨true, false, false, .accepted, 1#32, 0#32, 0#32⟩ }

/-- Both engines in FATAL. -/
def dead : State :=
  { ready cfgT with
    S := ⟨.fatal, false, d0, 16#14, false, 0#16, 1#16, .fatal⟩
    R := ⟨true, false, true, .fatal, 1#32, 0#32, 0#32⟩ }

/-- An application that does not take payloads. -/
def noApp : State := { ready cfgT with ports := { Ports.idle with rDlvReady := false } }

/-- A receiver whose accept branch for `D0_msg1` waits for the application. -/
def stalled : State := { noApp with rBusy := some msg1 }

/-- A trace whose first record waits for the application, before and after it begins. -/
def traced : State := { noApp with trace := encode (.rDgram d0) ++ encode .rst }

def tracedWaiting : State := { stalled with traceWaits := true, trace := encode .rst }

/-- The next state of an instruction. -/
def after (i : Instr) (s : State) : State :=
  match exec i s with
  | .next t => t
  | _ => s

/-- The output events of an instruction in `s`, whose log is empty. -/
def events (i : Instr) (s : State) : List Event := (after i s).log.map (·.2)

/-! ## WellFormed: an ill-formed term for each check -/

theorem test_wf_operand_limit :
    operandOk (List.replicate 65535 0#8) = true ∧ operandOk (List.replicate 65536 0#8) = false := by
  simp only [operandOk, List.length_replicate]; decide

theorem test_wf_refuses_long_operands :
    let b := List.replicate 65536 0#8
    (Instr.sSend b).wf = false ∧ (Instr.sResp b).wf = false ∧ (Instr.rDgram b).wf = false ∧
      (Instr.cCsum b).wf = false ∧ (Instr.cVerify b).wf = false ∧ (Instr.cEncode true false b).wf = false ∧
      (Instr.cDecode b).wf = false := by
  simp only [Instr.wf, operandOk, List.length_replicate]; decide

theorem test_wf_refuses_long_packets :
    let p : Packet := ⟨magicT, 0#16, 0#14, List.replicate 65524 0#8⟩
    (Instr.dataSeq0 p).wf = false ∧ (Instr.dataSeq1 p).wf = false ∧ (Instr.ackSeq0 p).wf = false ∧
      (Instr.ackSeq1 p).wf = false := by
  simp only [Instr.wf, Packet.wf, List.length_replicate]; decide

theorem test_wf_config : Config.wf { cfgT with timeoutTicks := 0#16 } = false ∧ cfgT.wf = true := by decide

theorem test_wf_buffer : Memory.wf cfg4 d12 = false ∧ Memory.wf cfg4 d0 = true := by decide

/-! ## Decoding: words written out from the spec's encodings (30_encoding.md R90, R94, R99, R109) -/

theorem test_decode_data_seq0 : decode .wire d0 = .ok (.dataSeq0 pkt0, []) := by rfl

theorem test_decode_data_seq1 : decode .wire d1 = .ok (.dataSeq1 pkt1, []) := by rfl

theorem test_decode_ack_seq0 : decode .wire ack0 = .ok (.ackSeq0 pktA0, []) := by rfl

theorem test_decode_ack_seq1 : decode .wire ack1 = .ok (.ackSeq1 pktA1, []) := by rfl

theorem test_decode_short_datagram : decode .wire (ack0.take 11) = .error .headerMissing := by rfl

/-- TE-3. -/
theorem test_decode_send : decode .trace ([0x01#8, 0x00#8, 0x04#8] ++ msg1) = .ok (.sSend msg1, []) := by rfl

theorem test_decode_resp : decode .trace ([0x02#8, 0x00#8, 0x0c#8] ++ ack0) = .ok (.sResp ack0, []) := by rfl

/-- TE-1, with a byte after it. -/
theorem test_decode_tick : decode .trace [0x03#8, 0x20#8] = .ok (.sTick, [0x20#8]) := by rfl

theorem test_decode_dgram : decode .trace [0x08#8, 0x00#8, 0x02#8, 0x01#8, 0x02#8] =
    .ok (.rDgram [0x01#8, 0x02#8], []) := by rfl

theorem test_decode_csum : decode .trace [0x10#8, 0x00#8, 0x00#8] = .ok (.cCsum [], []) := by rfl

theorem test_decode_verify : decode .trace [0x11#8, 0x00#8, 0x02#8, 0xff#8, 0xff#8] =
    .ok (.cVerify [0xff#8, 0xff#8], []) := by rfl

/-- CP-7. -/
theorem test_decode_encode : decode .trace [0x12#8, 0x01#8, 0x00#8, 0x03#8, 0x61#8, 0x62#8, 0x63#8] =
    .ok (.cEncode false true [0x61#8, 0x62#8, 0x63#8], []) := by rfl

theorem test_decode_decode : decode .trace [0x13#8, 0x00#8, 0x02#8, 0xff#8, 0xff#8] =
    .ok (.cDecode [0xff#8, 0xff#8], []) := by rfl

/-- TE-2, and the top of the address range. -/
theorem test_decode_read : decode .trace [0x20#8, 0x01#8] = .ok (.hRead 1#4, []) ∧
    decode .trace [0x20#8, 0x0f#8] = .ok (.hRead 15#4, []) := ⟨rfl, rfl⟩

/-- TE-4. -/
theorem test_decode_directives : decode .trace [0x40#8] = .ok (.sTxFail, []) ∧
    decode .trace [0x41#8] = .ok (.rTxFail, []) ∧ decode .trace [0xff#8] = .ok (.rst, []) := ⟨rfl, rfl, rfl⟩

/-- TE-5 to TE-9. -/
theorem test_decode_refuses :
    decode .trace [0x04#8] = .error (.reservedCode 0x04#8) ∧
    decode .trace [0x12#8, 0x04#8, 0x00#8, 0x00#8] = .error (.reservedFlags 0x04#8) ∧
    decode .trace [0x20#8, 0x10#8] = .error (.reservedAddr 0x10#8) ∧
    decode .trace [0x01#8, 0x00#8, 0x04#8, 0x6d#8, 0x73#8] = .error .truncatedRecord ∧
    decode .trace [0x00#8] = .error (.reservedCode 0x00#8) := ⟨rfl, rfl, rfl, rfl, rfl⟩

/-- The table's own words: header patterns and code bytes. -/
theorem test_table_words :
    (decodeTableWord 16 0x0040).isSome = true ∧ decodeTableWord 16 0x0033 =
      some (.ackSeq1 ⟨⟨0#8, 0#8, 0#8, 0#8, 0#8, 0#8, 0#8, 0#8⟩, 0#16, 12#14, []⟩) ∧
    decodeTableWord 8 0x01 = some (.sSend []) ∧ decodeTableWord 8 0x12 = some (.cEncode false false []) ∧
    decodeTableWord 8 0x20 = some (.hRead 0#4) ∧ decodeTableWord 8 0xFF = some .rst ∧
    decodeTableWord 8 0x42 = none := by decide

/-- A table record runs as the first instruction after reset. -/
theorem test_fetch_word_record :
    fetch (State.reset.withFetchWord 8 0x40) = .run .sTxFail { State.reset with trace := [] } := by rfl

/-- A table packet reaches the engine that consumes its class. -/
theorem test_fetch_word_packets :
    (State.reset.withFetchWord 16 0x0031).ports.rRx.isSome = true ∧
    (State.reset.withFetchWord 16 0x0032).ports.sRx.isSome = true := by decide

/-! ## Checksum (95_test_vectors.md 2.1) -/

/-- CK-1, CK-3, CK-8, CK-10, CK-12. -/
theorem test_sum16 :
    sum16 [] = 0x0000#16 ∧ sum16 [0x01#8] = 0x0100#16 ∧ sum16 [0xff#8, 0xff#8] = 0xFFFF#16 ∧
    sum16 [0x80#8, 0x00#8, 0x80#8, 0x00#8] = 0x0001#16 ∧
    sum16 [0xff#8, 0xff#8, 0xff#8, 0xff#8] = 0xFFFF#16 := by decide

/-- CK-IP. -/
theorem test_checksum_ip : checksum [0x45#8, 0x00#8, 0x00#8, 0x73#8, 0x00#8, 0x00#8, 0x40#8, 0x00#8, 0x40#8, 0x11#8,
    0x00#8, 0x00#8, 0xc0#8, 0xa8#8, 0x00#8, 0x01#8, 0xc0#8, 0xa8#8, 0x00#8, 0xc7#8] = 0xB861#16 := by decide

/-- S2, DT-2c, DT-3. -/
theorem test_verify : verify d0 = true ∧ verify d0Bad = false ∧
    verify (magicT.bytes ++ [0x24#8, 0x43#8, 0x00#8, 0x40#8, 0x6d#8, 0x71#8, 0x67#8, 0x33#8]) = true := by decide

/-! ## Encoder and decoder (2.2, 2.3, 2.9) -/

/-- EN-1, EN-3. -/
theorem test_encode_packets : encodePacket cfgT msg1 false false = d0 ∧ encodePacket cfgT [] true false = ack0 := by
  decide

/-- EN-7 (odd length), EN-11. -/
theorem test_encode_odd_length : encodePacket cfgT msg12 false false = d12 ∧
    encodePacket cfgT [0x61#8, 0x62#8, 0x63#8] false true =
      magicT.bytes ++ [0x34#8, 0x88#8, 0x00#8, 0x3d#8, 0x61#8, 0x62#8, 0x63#8] := by decide

/-- CP-2. -/
theorem test_c_csum : events (.cCsum [0xff#8, 0xff#8, 0x00#8, 0x01#8]) (ready cfgT) =
    [.cRsp [0x00#8, 0x01#8, 0xff#8, 0xfe#8]] := by decide

/-- CP-3, CP-5. -/
theorem test_c_verify : events (.cVerify ack0) (ready cfgT) = [.cRsp [0x01#8]] ∧
    events (.cVerify []) (ready cfgT) = [.cRsp [0x00#8]] := by decide

/-- CP-6, CP-8. -/
theorem test_c_encode : events (.cEncode true false []) (ready cfgT) = [.cRsp (0x00#8 :: ack0)] ∧
    events (.cEncode false false msg12) (ready cfg4) = [.cRsp [0x01#8]] := by decide

/-- CP-9, CP-11. -/
theorem test_c_decode : events (.cDecode d0) (ready cfgT) = [.cRsp ([0x07#8, 0x00#8, 0x40#8] ++ msg1)] ∧
    events (.cDecode [0xff#8, 0xff#8]) (ready cfgT) = [.cRsp [0x01#8, 0x00#8, 0x00#8]] := by decide

/-- DE-8. -/
theorem test_c_decode_oversize :
    events (.cDecode d12) (ready cfg4) = [.cRsp [0x01#8, 0x00#8, 0x44#8]] := by decide

/-! ## Receiver (2.5) -/

/-- RX-1. -/
theorem test_r_dgram_accepts : events (.rDgram d0) (ready cfgT) = [.rDlv msg1, .rTx ack0] ∧
    readReg (after (.rDgram d0) (ready cfgT)) 4#4 = 0x00000061#32 := by decide

/-- RX-2. -/
theorem test_r_dgram_corrupted : events (.rDgram d0Bad) (ready cfgT) = [.rTx ack1] ∧
    readReg (after (.rDgram d0Bad) (ready cfgT)) 4#4 = 0x00000012#32 := by decide

/-- RX-4, as a packet of class DATA_SEQ0. -/
theorem test_data_seq0_duplicate : events (.dataSeq0 pkt0) odd = [.rTx ack0] ∧
    readReg (after (.dataSeq0 pkt0) odd) 4#4 = 0x00000031#32 := by decide

/-- RX-5, as a packet of class DATA_SEQ1. -/
theorem test_data_seq1_accepted : events (.dataSeq1 pkt1) odd = [.rDlv msg2, .rTx ack1] ∧
    (after (.dataSeq1 pkt1) odd).R.expSeq = false := by decide

/-- RX-11. -/
theorem test_r_txfail : events (.rDgram d0) (after .rTxFail (ready cfgT)) =
      [.rDlv msg1, .rTx ack0, .fatal .receiver] ∧
    readReg (after (.rDgram d0) (after .rTxFail (ready cfgT))) 4#4 = 0x00000045#32 := by decide

/-- An untaken payload (70_reset_and_hazards.md R311): the datagram offered on `r_rx` begins the transaction, with no output; a
duplicate is held meanwhile, its ready signal low (00_scope.md R10); reset aborts it. -/
theorem test_delivery_waits :
    step { noApp with ports := { noApp.ports with rRx := some d0 } } = .next stalled ∧
    step { stalled with ports := { noApp.ports with rRx := some d1 } } =
      .next { stalled with ports := { noApp.ports with rRx := some d1 } } ∧
    (after .rst stalled).rBusy = none ∧ events (.rDgram d0) noApp = [] ∧ held (.rDgram d0) noApp = false ∧
    held (.rDgram d1) stalled = true ∧ rRxReady stalled = false :=
  ⟨rfl, rfl, by decide⟩

/-- A trace record that waits holds the trace, with `r_rx_ready` low (93_implementation_defined.md I24). -/
theorem test_trace_waits : step traced = .next tracedWaiting ∧ step tracedWaiting = .next tracedWaiting ∧
    rRxReady tracedWaiting = false ∧ runTrace traced.trace traced = .stuck := ⟨rfl, rfl, rfl, rfl⟩

/-- The application takes the payload: the delivery, then the ack. -/
theorem test_delivery_taken :
    (match step { stalled with ports := Ports.idle } with
      | .next t => (t.log.map (·.2), t.rBusy, t.R.expSeq)
      | _ => ([], none, false)) = ([.rDlv msg1, .rTx ack0], none, true) := by decide

/-! ## Sender (2.6, 2.7) -/

/-- TX-1. -/
theorem test_s_send : events (.sSend msg1) (ready cfgT) = [.sTx d0] ∧
    readReg (after (.sSend msg1) (ready cfgT)) 1#4 = 0x00000079#32 := by decide

/-- Program P6, first two records. -/
theorem test_s_send_too_long : events (.sSend msg12) (ready cfg4) = [.sMsgErr] ∧
    readReg (after (.sSend msg12) (ready cfg4)) 1#4 = 0x00000050#32 := by decide

/-- TX-2. -/
theorem test_s_resp_confirms : events (.sResp ack0) (waiting 0#16) = [.sDone] ∧
    readReg (after (.sResp ack0) (waiting 0#16)) 1#4 = 0x00000064#32 := by decide

/-- Program P8 without and with `ACK_VERIFY`. -/
theorem test_s_resp_ack_verify :
    let d : Bytes := magicT.bytes ++ [0x00#8, 0x00#8, 0x00#8, 0x32#8, 0x00#8, 0x00#8]
    let s := waiting 0#16
    (after (.sResp d) { s with cfg := { cfgT with ackVerify := false } }).S.last = .confirmed ∧
    readReg (after (.sResp d) s) 1#4 = 0x00000019#32 := by decide

theorem test_ack_seq0 : events (.ackSeq0 pktA0) (waiting 1#16) = [.sDone] := by decide

/-- Program P4, second record: the stale ack rearms. -/
theorem test_ack_seq1_stale : (after (.ackSeq1 pktA1) (waiting 2#16)).S.last = .staleAck ∧
    (after (.ackSeq1 pktA1) (waiting 2#16)).S.timerCnt = 0#16 := by decide

/-- TM-2. -/
theorem test_s_tick_retransmits : events .sTick (waiting 2#16) = [.sTx d0] ∧
    readReg (after .sTick (waiting 2#16)) 1#4 = 0x00000029#32 := by decide

/-- TM-6. -/
theorem test_s_tick_saturates :
    let s := waiting 2#16
    (after .sTick { s with S := { s.S with retx := 0xFFFF#16 } }).S.retx = 0xFFFF#16 := by decide

/-- TM-7. -/
theorem test_s_txfail : events .sTick (after .sTxFail (waiting 2#16)) = [.sTx d0, .fatal .sender] ∧
    readReg (after .sTick (after .sTxFail (waiting 2#16))) 1#4 = 0x00000042#32 := by decide

/-! ## Registers and reset (2.8) -/

/-- RG-1, RG-5, RG-7, RG-10. -/
theorem test_h_read : events (.hRead 0#4) (ready cfgT) = [.hRdata 0x52445433#32] ∧
    readReg (ready cfgT) 8#4 = 0x7FF30003#32 ∧ readReg (ready cfgT) 10#4 = 0x30303030#32 ∧
    readReg (waiting 0#16) 3#4 = 0x00100000#32 := by decide

/-- Program P5, its end. -/
theorem test_rst : readReg (after .rst dead) 1#4 = 0x00000000#32 ∧ readReg (after .rst dead) 4#4 = 0x00000002#32 := by
  decide

/-! ## Lines of a trace (30_encoding.md R107, R108) -/

theorem test_line_text : readLine "SEND \"a;b\" ; comment".toList =
    some (some (.record (.sSend [0x61#8, 0x3b#8, 0x62#8]))) := by decide

theorem test_line_encode : readLine "ENCODE ack=1 seq=0 x:0aFF".toList =
    some (some (.record (.cEncode true false [0x0a#8, 0xff#8]))) := by decide

theorem test_line_read : readLine "READ R_STATUS".toList = some (some (.record (.hRead 4#4))) ∧
    readLine "TICKS 12".toList = some (some (.ticks 12)) ∧ readLine "  ; nothing".toList = some none ∧
    readLine "SEND x:0".toList = none := by decide

/-! ## Witnesses: for each statement with hypotheses, values that meet them, clause by clause, at the ends of a range -/

/-- The largest operand. -/
def longest : Bytes := List.replicate 65535 0#8

theorem longest_length : longest.length = 65535 := List.length_replicate

/-- A message one byte over the operand limit (30_encoding.md R101). -/
def tooLong : Bytes := List.replicate 65536 0#8

theorem tooLong_notWf : (Instr.sSend tooLong).wf = false := by
  have : tooLong.length = 65536 := List.length_replicate
  simp [Instr.wf, operandOk, this]

theorem waiting_sender_inv : (waiting 2#16).S.Inv (waiting 2#16).cfg := by constructor <;> decide

theorem waiting_inv : (waiting 2#16).Inv :=
  ⟨by decide, waiting_sender_inv, by constructor <;> decide, by decide, by decide, by decide, by decide⟩

theorem ready_receiver_inv : (ready cfgT).R.Inv := by constructor <;> decide

theorem odd_receiver_inv : odd.R.Inv := by constructor <;> decide

theorem stalled_inv : stalled.Inv :=
  ⟨by decide, by constructor <;> decide, by constructor <;> decide, by decide, by decide, by decide, by decide⟩

theorem dead_receiver_inv : dead.R.Inv := by constructor <;> decide

theorem witness_DecodeReversesEncode : (Instr.sSend longest).wf = true ∧ (Instr.ackSeq1 pktA1).wf = true := by
  simp only [Instr.wf, operandOk, longest_length]; decide

theorem witness_TraceDecodesRecordByRecord :
    ((Instr.sSend longest).wf = true ∧ (Instr.sSend longest).channel = .trace) ∧
    (∀ i ∈ [Instr.sTick, .rst], i.wf = true ∧ i.channel = .trace) ∧
    decodeTrace [0x03#8, 0xff#8] = .ok [.sTick, .rst] := by
  simp only [Instr.wf, operandOk, longest_length]; decide

theorem witness_EachInstructionHasOneSpelling :
    decode .trace [0x03#8, 0x20#8] = .ok (.sTick, [0x20#8]) ∧
    decode .wire ack0 = .ok (.ackSeq0 pktA0, []) ∧ ack0.length ≤ operandLimit := ⟨rfl, rfl, by decide⟩

theorem witness_MalformedRecordsAreRefused :
    let s := fun b : Bytes => { ready cfgT with trace := b }
    (Expected.quiet (s []) ∧ Expected.noDelivery (s []) ∧ (s []).traceWaits = false) ∧
    (∀ c ∈ [0x00#8, 0x04#8, 0x07#8, 0x09#8, 0x0F#8, 0x14#8, 0x1F#8, 0x21#8, 0x3F#8, 0x42#8, 0xFE#8],
      Expected.reservedCode c.toNat ∧ (s [c]).trace = c :: []) ∧
    (∀ f ∈ [0x04#8, 0xFF#8], 4 ≤ f.toNat ∧ (s [0x12#8, f]).trace = 0x12#8 :: f :: []) ∧
    (∀ a ∈ [0x10#8, 0xFF#8], 16 ≤ a.toNat ∧ (s [0x20#8, a]).trace = 0x20#8 :: a :: []) ∧
    (∀ k ∈ [1, 6], (Instr.sSend msg1).wf = true ∧ (Instr.sSend msg1).channel = .trace ∧ 0 < k ∧
      k < (encode (.sSend msg1)).length ∧
      (s ((encode (.sSend msg1)).take k)).trace = (encode (.sSend msg1)).take k) ∧
    (∀ c ∈ [0x01#8, 0x03#8, 0x08#8, 0x10#8, 0x13#8, 0x20#8, 0x40#8, 0x41#8, 0xFF#8],
      ¬ Expected.reservedCode c.toNat) := by
  unfold Expected.reservedCode
  exact ⟨⟨⟨true, rfl⟩, .inl rfl, rfl⟩, by decide, by decide, by decide, by decide, by decide⟩

theorem witness_LowHeaderBitsSelectPacketClass :
    (12 ≤ d0.length ∧ (u16be d0 10).toNat % 4 = 0) ∧ (12 ≤ d1.length ∧ (u16be d1 10).toNat % 4 = 1) ∧
    (12 = ack0.length ∧ (u16be ack0 10).toNat % 4 = 2) ∧ (12 = ack1.length ∧ (u16be ack1 10).toNat % 4 = 3) := by
  decide

theorem witness_PortTransferIsReadBack : longest.length ≤ 65535 ∧ ([] : Bytes).length ≤ 65535 := by
  rw [longest_length]; decide

theorem witness_TraceTextIsReadBack : writeRecord (.hRead 15#4) = some "READ 0xf".toList ∧
    writeRecord (.sSend []) = some "SEND x:".toList ∧ (Instr.sSend []).wf = true ∧
    (Instr.sSend tooLong).wf = false ∧
    readLine "SEND x:".toList = some (some (.record (.sSend []))) :=
  ⟨by decide, by decide, rfl, tooLong_notWf, by decide⟩

theorem witness_PseudoRecordsExpand :
    1 ≤ 1 ∧
    { ready cfgT with log := [(0, .sTx d0), (4, .rTx ack0)] }.log = [] ++ (0, .sTx d0) :: [(4, .rTx ack0)] ∧
    sentDatagrams [(4, .rTx ack0)] = [] ∧
    { ready cfgT with log := [(0, .sTx d0), (4, .rTx ack0)] }.log = [(0, .sTx d0)] ++ (4, .rTx ack0) :: [] ∧
    ackDatagrams [] = [] ∧
    expandLine (ready cfgT) (.record (.sSend tooLong)) = some [.sSend tooLong] ∧
    ∃ i ∈ [Instr.sSend tooLong], i.wf = false :=
  ⟨by decide, by decide, by decide, by decide, by decide, rfl, _, List.mem_singleton.mpr rfl, tooLong_notWf⟩

theorem witness_Sum16RangeAndCongruence : sum16 [0xff#8, 0xff#8] ≠ 0#16 ∧ sum16 [0x00#8, 0x01#8] ≠ 0#16 := by decide

theorem witness_ChecksumComplementsSum16 : sum16 [] = 0x0000#16 ∧ sum16 [0xff#8, 0xff#8] = 0xFFFF#16 := by decide

theorem witness_NarrowAccumulatorSuffices : longest.length ≤ 65535 := by rw [longest_length]

theorem witness_InsertedChecksumVerifies :
    let z : Bytes := List.replicate 10 0#8
    10 ≤ z.length ∧ z.getD 8 0xFF#8 = 0#8 ∧ z.getD 9 0xFF#8 = 0#8 := by decide

theorem witness_SingleBitInversionIsDetected :
    verify d0 = true ∧ (0 < d0.length ∧ 0 < 8) ∧ (15 < d0.length ∧ 7 < 8) := by decide

/-- DT-4: the payload words of `D0_msg1` swapped. -/
theorem witness_CancellingChangesAreUndetected :
    let q := magicT.bytes ++ [0x24#8, 0x43#8, 0x00#8, 0x40#8, 0x67#8, 0x31#8, 0x6d#8, 0x73#8]
    verify d0 = true ∧ 0 < wordSum q ∧ wordSum q % 0xFFFF = wordSum d0 % 0xFFFF := by decide

theorem witness_WordOrderIsIrrelevant :
    (Expected.words [0x01#8, 0x00#8, 0x02#8]).Perm (Expected.words [0x02#8, 0x00#8, 0x01#8]) ∧
    (Expected.words [0x01#8]).Perm (Expected.words [0x01#8, 0x00#8]) ∧ (0x01#8 : Byte) ≠ 0x00#8 :=
  ⟨List.Perm.swap _ _ _, List.Perm.refl _, by decide⟩

theorem witness_EncodedPacketProperties : msg1.length = cfg4.maxPayload.val ∧ ([] : Bytes).length ≤ cfg4.maxPayload.val := by
  decide

theorem witness_DatagramDecodeReversesEncode : msg1.length = cfg4.maxPayload.val := by decide

/-- DE-9 differs from `D0_msg1` in its totalLength and its checksum. -/
theorem witness_UnreadFieldsDoNotMatter :
    let e := magicT.bytes ++ [0x24#8, 0x33#8, 0x00#8, 0x50#8] ++ msg1
    d0 ≠ e ∧ (decodeDatagram cfgT d0).seqNum = (decodeDatagram cfgT e).seqNum ∧
    (decodeDatagram cfgT d0).valid = (decodeDatagram cfgT e).valid ∧
    (decodeDatagram cfgT d0).payload = (decodeDatagram cfgT e).payload ∧
    (Expected.good cfgT d0 ↔ Expected.good cfgT e) := by
  unfold Expected.good; decide

theorem witness_OversizeDatagramsAreUnread : cfg4.maxDgram + 1 = d12.length ∧ cfg4.maxDgram < (d12 ++ d12).length := by
  decide

theorem witness_CodecPortResponds : (ready cfg4).cfg.maxPayload.val + 1 = msg12.length ∧
    msg1.length = (ready cfg4).cfg.maxPayload.val ∧ (12 = ack0.length ∧ (ack0.take 11).length < 12) ∧
    (decodeDatagram cfg4 d0).sizeOk = true ∧ (decodeDatagram cfg4 d12).sizeOk = false := by decide

theorem witness_RegisterReadsReturnFields : 0xB ≤ (0xB#4).toNat ∧ 0xB ≤ (0xF#4).toNat := by decide

theorem witness_TransportFailureDirectives :
    exec .sTxFail (ready cfgT) = .next { ready cfgT with failS := true } ∧
    exec .rTxFail (ready cfgT) = .next { ready cfgT with failR := true } := ⟨rfl, rfl⟩

theorem witness_TransmitAnswersOkWithoutDirective :
    (transmit .sender d0 (ready cfgT)).1 = .ok ∧ (ready cfgT).failS = false := by decide

theorem witness_SendTransaction :
    ((ready cfg4).S.state = .ready ∧ (ready cfg4).cfg.maxPayload.val < msg12.length) ∧
    ((ready cfg4).S.state = .ready ∧ msg1.length ≤ (ready cfg4).cfg.maxPayload.val ∧ (ready cfg4).failS = false) ∧
    ((after .sTxFail (ready cfg4)).S.state = .ready ∧ (after .sTxFail (ready cfg4)).failS = true) ∧
    (waiting 0#16).S.state ≠ .ready ∧ dead.S.state ≠ .ready ∧
    (exec (.sSend msg12) (ready cfg4) = .next (after (.sSend msg12) (ready cfg4)) ∧
      ∀ e ∈ (ready cfg4).log, e.1 < (ready cfg4).recNo) := by
  refine ⟨?_, ?_, ?_, ?_, ?_, rfl, ?_⟩ <;> decide

theorem witness_ResponseTransaction :
    ((waiting 0#16).S.state = .waitAck ∧ Expected.good cfgT ack0 ∧
      (u16be ack0 10).getLsbD 0 = (waiting 0#16).S.curSeq) ∧
    (Expected.good cfgT ack1 ∧ (u16be ack1 10).getLsbD 0 ≠ (waiting 0#16).S.curSeq) ∧
    (¬ Expected.good cfgT d0Bad ∧ ¬ Expected.good cfgT (ack0.take 11) ∧ ¬ Expected.good cfg4 d12) ∧
    (ready cfgT).S.state ≠ .waitAck ∧ (∀ e ∈ (waiting 0#16).log, e.1 < (waiting 0#16).recNo) := by
  unfold Expected.good; decide

theorem witness_TickTransaction :
    (waiting 2#16).S.Inv (waiting 2#16).cfg ∧ (ready cfgT).S.state ≠ .waitAck ∧
    ((waiting 1#16).S.state = .waitAck ∧ (waiting 1#16).S.timerArmed = true ∧
      (waiting 1#16).S.timerCnt + 1#16 ≠ cfgT.timeoutTicks) ∧
    ((waiting 2#16).S.timerCnt + 1#16 = cfgT.timeoutTicks ∧ (waiting 2#16).failS = false ∧
      (after .sTxFail (waiting 2#16)).failS = true) :=
  ⟨waiting_sender_inv, by decide⟩

theorem witness_AckPacketsAtSender :
    (ready cfgT).S.state ≠ .waitAck ∧
    ((waiting 0#16).S.state = .waitAck ∧ 12 + pktA0.payload.length ≤ cfgT.maxDgram ∧
      verify (encode (.ackSeq0 pktA0)) = true ∧ verify (encode (.ackSeq1 pktA1)) = true) ∧
    (verify (encode (.ackSeq0 pkt0)) = false ∧ verify (encode (.ackSeq1 pkt0)) = false ∧ cfgT.ackVerify = true) ∧
    cfg4.maxDgram < 12 + (⟨magicT, 0#16, 0#14, msg12⟩ : Packet).payload.length := by decide

theorem witness_OnlyConfirmationFlipsCurSeq :
    (exec .rst dead = .next (after .rst dead)) ∧ exec (.sResp ack0) (waiting 0#16) = .next (after (.sResp ack0) (waiting 0#16)) ∧
    (after (.sResp ack0) (waiting 0#16)).S.curSeq ≠ (waiting 0#16).S.curSeq := ⟨rfl, rfl, by decide⟩

theorem witness_OnlySendWritesOutBuf :
    exec (.sSend msg1) (ready cfgT) = .next (after (.sSend msg1) (ready cfgT)) ∧
    (after (.sSend msg1) (ready cfgT)).S.outBuf ≠ (ready cfgT).S.outBuf := ⟨rfl, by decide⟩

theorem witness_SenderProtocolProperties :
    (exec (.sSend msg1) (ready cfgT) = .next (after (.sSend msg1) (ready cfgT)) ∧ (ready cfgT).S.state = .ready) ∧
    exec (.sResp ack0) (waiting 0#16) = .next (after (.sResp ack0) (waiting 0#16)) ∧
    (waiting 0#16).S.state = .waitAck ∧
    Expected.emits (waiting 0#16) (after (.sResp ack0) (waiting 0#16)) .sDone := by
  refine ⟨⟨rfl, by decide⟩, rfl, by decide, ?_⟩
  unfold Expected.emits; decide

theorem witness_RetransmissionAtTimeoutTick :
    (waiting 0#16).S.state = .waitAck ∧ (waiting 0#16).S.timerArmed = true ∧ (waiting 0#16).S.timerCnt = 0#16 ∧
    (waiting 0#16).failS = false ∧ 0 < (waiting 0#16).cfg.timeoutTicks.toNat ∧
    2 < (waiting 0#16).cfg.timeoutTicks.toNat ∧ (waiting 0#16).cfg.wf = true := by decide

theorem witness_ReceiveTransaction :
    (dead.R.fatal = true ∧ stalled.rBusy ≠ none) ∧ ((ready cfg4).R.fatal = false ∧ (ready cfg4).rBusy = none) ∧
    ((ack0.take 11).length < 12 ∧ cfg4.maxDgram + 1 = d12.length ∧ verify d0Bad = false) ∧
    (12 ≤ ack0.length ∧ d0.length = cfg4.maxDgram ∧ verify d0 = true ∧ verify ack0 = true) ∧
    ((ready cfg4).ports.rDlvReady = true ∧ (u16be d0 10).getLsbD 0 = (ready cfg4).R.expSeq) ∧
    (noApp.ports.rDlvReady = false ∧ (u16be d0 10).getLsbD 0 = noApp.R.expSeq ∧
      (u16be d1 10).getLsbD 0 ≠ noApp.R.expSeq) := by decide

theorem witness_DataPacketsAtReceiver :
    dead.R.fatal = true ∧ stalled.rBusy ≠ none ∧ (ready cfg4).R.fatal = false ∧ (ready cfg4).rBusy = none ∧
    12 + pkt0.payload.length = cfg4.maxDgram ∧
    verify (encode (.dataSeq0 pkt0)) = true ∧ verify (encode (.dataSeq1 pkt1)) = true ∧
    verify (encode (.dataSeq0 pkt1)) = false ∧ verify (encode (.dataSeq1 pkt0)) = false ∧
    cfg4.maxDgram < 12 + (⟨magicT, 0#16, 0#14, msg12⟩ : Packet).payload.length := by decide

/-- Every row of the table has a datagram and a state; the last row has `dead`. -/
theorem witness_ReceiverTransitionTable :
    ((ready cfgT).R.Inv ∧ odd.R.Inv ∧ dead.R.Inv) ∧
    exec (.rDgram d0) (ready cfgT) = .next (after (.rDgram d0) (ready cfgT)) ∧
    (ready cfgT).R.control = .waitForEven ∧ odd.R.control = .waitForOdd ∧ dead.R.control = .fatal ∧
    (decodeDatagram cfgT d0Bad).valid = false ∧
    ((decodeDatagram cfgT d0).valid = true ∧ (decodeDatagram cfgT d0).seqNum = false) ∧
    ((decodeDatagram cfgT d1).valid = true ∧ (decodeDatagram cfgT d1).seqNum = true) ∧
    (ready cfgT).failR = false ∧ (after .rTxFail odd).failR = true ∧
    (ready cfgT).rBusy = none ∧ odd.rBusy = none ∧ dead.rBusy = none ∧
    (ready cfgT).ports.rDlvReady = true ∧ odd.ports.rDlvReady = true ∧ dead.ports.rDlvReady = true :=
  ⟨⟨ready_receiver_inv, odd_receiver_inv, dead_receiver_inv⟩, rfl, by decide⟩

theorem witness_OnlyAcceptWritesSequenceState :
    exec (.rDgram d0) (ready cfgT) = .next (after (.rDgram d0) (ready cfgT)) ∧
    (after (.rDgram d0) (ready cfgT)).R.expSeq ≠ (ready cfgT).R.expSeq := ⟨rfl, by decide⟩

theorem witness_ExactlyOneAckPerDatagram :
    Expected.toReceiver (.dataSeq0 pkt0) = some d0 ∧ held (.dataSeq0 pkt0) (ready cfgT) = false ∧
    waits (.dataSeq0 pkt0) (ready cfgT) = false ∧ held (.dataSeq0 pkt0) dead = true ∧
    waits (.dataSeq0 pkt0) noApp = true ∧ Expected.toReceiver .sTick = none := by
  decide

theorem witness_ReackBranchesAgree :
    odd.R.Inv ∧ odd.R.fatal = false ∧ odd.rBusy = none ∧ exec (.rDgram d0) odd = .next (after (.rDgram d0) odd) ∧
    (decodeDatagram odd.cfg d0Bad).valid = false ∧ (decodeDatagram odd.cfg d0).seqNum ≠ odd.R.expSeq :=
  ⟨odd_receiver_inv, by decide, by decide, rfl, by decide⟩

theorem witness_SecondCopyDeliversNothing :
    let s := ready cfgT
    s.R.fatal = false ∧ s.failR = false ∧ s.rBusy = none ∧ s.ports.rDlvReady = true ∧ (decodeDatagram s.cfg d0).valid = true ∧
    (decodeDatagram s.cfg d0).seqNum = s.R.expSeq ∧ exec (.rDgram d0) s = .next (after (.rDgram d0) s) ∧
    exec (.rDgram d0) (after (.rDgram d0) s) = .next (after (.rDgram d0) (after (.rDgram d0) s)) :=
  ⟨by decide, by decide, by decide, by decide, by decide, by decide, rfl, rfl⟩

theorem witness_FatalEntryEffect :
    let s := after .sTxFail (waiting 2#16)
    let r := after .rTxFail (ready cfgT)
    (exec .sTick s = .next (after .sTick s) ∧ s.S.state ≠ .fatal ∧ (after .sTick s).S.state = .fatal ∧
      s.failS = true ∧ (after .sTick s).failS = false ∧
      exec .sTick { s with failS := false } = .next (after .sTick { s with failS := false })) ∧
    (exec (.rDgram d0) r = .next (after (.rDgram d0) r) ∧ r.R.fatal = false ∧ (after (.rDgram d0) r).R.fatal = true ∧
      r.failR = true ∧ (after (.rDgram d0) r).failR = false ∧
      exec (.rDgram d0) { r with failR := false } = .next (after (.rDgram d0) { r with failR := false })) :=
  ⟨⟨rfl, by decide, by decide, by decide, by decide, rfl⟩, ⟨rfl, by decide, by decide, by decide, by decide, rfl⟩⟩

/-- A run that enters FATAL, then a reset that leaves it: the run's premise stays unmet. -/
theorem witness_FatalUntilReset :
    let s := after .sTxFail (waiting 2#16)
    (exec .rst dead = .next (after .rst dead) ∧ exec .sTick dead = .next dead ∧ dead.S.state = .fatal ∧
      dead.R.fatal = true) ∧
    (∃ t u, runRecords [.sTick] s = .ended t ∧ noFatalEvent s t = false ∧ runRecords [.rst] t = .ended u ∧
      outsideFatal u = true) ∧
    (outsideFatal (waiting 0#16) = true ∧ ∃ t, runRecords [.sTick] (waiting 0#16) = .ended t ∧
      noFatalEvent (waiting 0#16) t = true) :=
  ⟨⟨rfl, rfl, by decide⟩, ⟨_, _, rfl, rfl, rfl, rfl⟩, by decide, _, rfl, rfl⟩

theorem witness_ResetTransaction : ∀ e ∈ (finish (waiting 0#16)).log, e.1 < (finish (waiting 0#16)).recNo := by decide

theorem witness_EngineAfterReset :
    let p := { Ports.idle with sMsg := some msg1 }
    let s := { State.resetWith cfgT with ports := p }
    msg1.length ≤ cfgT.maxPayload.val ∧ (∃ t, exec (.sSend msg1) s = .next t) ∧
    (∃ t, exec (.rDgram d0) s = .next t) ∧ (decodeDatagram cfgT d0).valid = true ∧ p.rDlvReady = true ∧
    (∃ t, exec (.rDgram d0Bad) s = .next t) ∧ (decodeDatagram cfgT d0Bad).valid = false :=
  ⟨by decide, ⟨_, rfl⟩, ⟨_, rfl⟩, by decide, rfl, ⟨_, rfl⟩, by decide⟩

/-- Two states with the same sender and another receiver. -/
theorem witness_EnginesShareNoState :
    exec .sTick (ready cfgT) = .next (after .sTick (ready cfgT)) ∧ exec .sTick odd = .next (after .sTick odd) ∧
    (ready cfgT).cfg = odd.cfg ∧ (ready cfgT).S = odd.S ∧ (ready cfgT).failS = odd.failS ∧
    (ready cfgT).draws = odd.draws ∧ (waiting 0#16).rBusy = (ready cfgT).rBusy ∧
    (waiting 0#16).ports.rDlvReady = (ready cfgT).ports.rDlvReady ∧ (waiting 0#16).R = (ready cfgT).R ∧ (waiting 0#16).failR = (ready cfgT).failR ∧
    Instr.hRead 0#4 ≠ .rst ∧ Instr.hRead 0#4 ≠ .sTick ∧ Instr.hRead 0#4 ≠ .sTxFail ∧ Instr.hRead 0#4 ≠ .rTxFail ∧
    Expected.toSender (.hRead 0#4) = none ∧ Expected.toReceiver (.hRead 0#4) = none := ⟨rfl, rfl, by decide⟩

theorem witness_SenderAndReceiverCommute :
    let s := waiting 0#16
    exec (.sResp ack0) s = .next (after (.sResp ack0) s) ∧
    exec (.rDgram d0) (after (.sResp ack0) s) = .next (after (.rDgram d0) (after (.sResp ack0) s)) ∧
    exec (.rDgram d0) s = .next (after (.rDgram d0) s) ∧
    exec (.sResp ack0) (after (.rDgram d0) s) = .next (after (.sResp ack0) (after (.rDgram d0) s)) :=
  ⟨rfl, rfl, rfl, rfl⟩

theorem witness_StepRunsDecodedInstruction :
    let s := { waiting 0#16 with trace := encode .sTick ++ encode .rst }
    let a := { waiting 0#16 with ports := { Ports.idle with sRx := some ack0 } }
    let r := { waiting 0#16 with ports := { Ports.idle with rRx := some d0 } }
    (Expected.noDelivery s ∧ Expected.noDelivery a ∧ Expected.noDelivery r ∧ Expected.quiet s) ∧
    (Instr.sTick.wf = true ∧ Instr.sTick.channel = .trace ∧ held .sTick s = false ∧ waits .sTick s = false ∧
      s.traceWaits = false) ∧
    ((Instr.rDgram d0).wf = true ∧ held (.rDgram d0) traced = false ∧ waits (.rDgram d0) traced = true ∧
      traced.traceWaits = false ∧ waits (.dataSeq0 pkt0) { noApp with ports := { noApp.ports with rRx := some d0 } } = true) ∧
    ((Instr.ackSeq0 pktA0).wf = true ∧ (Instr.ackSeq0 pktA0).channel = .wire ∧
      Expected.toSender (.ackSeq0 pktA0) ≠ none ∧ a.ports.rst = false ∧
      a.ports.sRx = some (encode (.ackSeq0 pktA0))) ∧
    ((Instr.dataSeq0 pkt0).wf = true ∧ (Instr.dataSeq0 pkt0).channel = .wire ∧
      Expected.toReceiver (.dataSeq0 pkt0) ≠ none ∧ r.ports.rst = false ∧ r.ports.sRx = none ∧
      r.ports.rRx = some (encode (.dataSeq0 pkt0)) ∧ held (.dataSeq0 pkt0) r = false) :=
  ⟨⟨.inl rfl, .inl rfl, .inl rfl, true, rfl⟩, by decide, by decide, by decide, by decide⟩

/-- A message that waits for the round to end, a datagram behind a transaction in progress, and a record that waits for
the application. -/
theorem witness_HeldRecordsKeepTheState :
    let s := { waiting 0#16 with trace := encode (.sSend msg1) ++ encode .rst }
    let r := { stalled with trace := encode (.rDgram d0) ++ encode .rst }
    (Expected.quiet (waiting 0#16) ∧ Expected.noDelivery (waiting 0#16) ∧ (waiting 0#16).trace = []) ∧
    (Expected.quiet s ∧ Expected.noDelivery s ∧ (Instr.sSend msg1).wf = true ∧ (Instr.sSend msg1).channel = .trace ∧
      held (.sSend msg1) s = true) ∧
    (Expected.quiet r ∧ Expected.noDelivery r ∧ (Instr.rDgram d0).wf = true ∧ held (.rDgram d0) r = true) ∧
    (Expected.quiet tracedWaiting ∧ Expected.noDelivery tracedWaiting ∧ tracedWaiting.traceWaits = true) :=
  ⟨⟨⟨true, rfl⟩, .inl rfl, rfl⟩, ⟨⟨true, rfl⟩, .inl rfl, by decide⟩, ⟨⟨false, rfl⟩, .inr rfl, by decide⟩,
    ⟨false, rfl⟩, .inr rfl, rfl⟩

/-- Every port offers at once; each clause's case follows with the offers above it gone. -/
theorem witness_PortOffersByPriority :
    let all : Ports := ⟨true, some ack0, some d0, true, some msg1, some ⟨0#2, 0#2, []⟩, some 0#4, true⟩
    let s := fun (p : Ports) => { ready cfgT with ports := p }
    let rx : Ports := { all with rst := false, sRx := none }
    let low : Ports := { rx with rRx := none, tick := false }
    (all.wf = true ∧ (s all).ports.rst = true) ∧
    ((∃ i u, fetch (s all) = .run i u) ∧ ∃ i u, fetch traced = .start i u) ∧
    ((s { all with rst := false }).ports.sRx = some ack0 ∧ Expected.noDelivery (s { all with rst := false })) ∧
    (rRxReady (s rx) = true ∧ (s rx).ports.rRx = some d0 ∧ waits (.rDgram d0) (s rx) = false ∧
      waits (.rDgram d0) (s { rx with rDlvReady := false }) = true) ∧
    ({ s { all with rst := false } with rBusy := some msg1 }.ports.rDlvReady = true ∧
      rRxReady { s { rx with rDlvReady := false } with rBusy := some msg1 } = false ∧
      Expected.noDelivery { s { rx with rDlvReady := false } with rBusy := some msg1 }) ∧
    ((s { low with tick := true }).ports.tick = true ∧ (s low).ports.tick = false ∧ (s low).S.state = .ready ∧
      (s low).ports.sMsg = some msg1) ∧
    (({ waiting 0#16 with ports := low }).S.state ≠ .ready ∧ low.cReq = some ⟨0#2, 0#2, []⟩ ∧
      { low with sMsg := none, cReq := none }.hRd = some 0#4) :=
  ⟨by decide, ⟨⟨_, _, rfl⟩, _, _, rfl⟩, ⟨rfl, .inl rfl⟩, by decide, ⟨rfl, rfl, .inr rfl⟩, by decide, by decide⟩

theorem witness_AckBeatsTimeoutTick :
    let s := { waiting 2#16 with ports := { Ports.idle with sRx := some ack0, tick := true } }
    Expected.noDelivery s ∧ s.ports.rst = false ∧ s.ports.sRx = some ack0 ∧ s.ports.rRx = none ∧ s.ports.tick = true ∧
    s.S.state = .waitAck ∧ s.S.timerArmed = true ∧ s.S.timerCnt + 1#16 = s.cfg.timeoutTicks ∧
    Expected.good s.cfg ack0 ∧ (u16be ack0 10).getLsbD 0 = s.S.curSeq := by
  refine ⟨.inl rfl, ?_⟩
  unfold Expected.good; decide

/-- A trace that ends, and two that are stuck at their first record, held or waiting. -/
theorem witness_SteppingAppliesTrace :
    let s := { ready cfgT with trace := [0x03#8, 0x40#8] }
    let h := { waiting 0#16 with trace := encode (.sSend msg1) }
    (Expected.quiet s ∧ s.rBusy = none ∧ s.traceWaits = false ∧ decodeTrace s.trace = .ok [.sTick, .sTxFail] ∧
      ∃ t, runTrace s.trace s = .ended t) ∧
    (Expected.quiet h ∧ h.rBusy = none ∧ h.traceWaits = false ∧ runTrace h.trace h = .stuck) ∧
    (Expected.quiet traced ∧ traced.rBusy = none ∧ traced.traceWaits = false ∧ runTrace traced.trace traced = .stuck) :=
  ⟨⟨⟨true, rfl⟩, rfl, rfl, rfl, _, rfl⟩, ⟨⟨true, rfl⟩, rfl, rfl, rfl⟩, ⟨false, rfl⟩, rfl, rfl, rfl⟩

theorem witness_ParametersNeverChange : step (ready cfgT) = .next (ready cfgT) := rfl

theorem witness_ResetMeetsInvariant : cfgT.wf = true ∧ Config.wf { cfgT with timeoutTicks := 1#16 } = true := by decide

theorem witness_StepKeepsInvariant : (waiting 2#16).Inv ∧ step (waiting 2#16) = .next (waiting 2#16) ∧
    (∃ t, step { waiting 2#16 with trace := [0x03#8] } = .next t) ∧ stalled.Inv ∧ step stalled = .next stalled :=
  ⟨waiting_inv, rfl, ⟨_, rfl⟩, stalled_inv, rfl⟩

/-- A sender that waits is reachable: reset, a trace, one step. -/
theorem witness_ReachableStatesKeepSpecInvariants :
    ∃ s : State, Reachable s ∧ s.S.state = .waitAck := by
  refine ⟨_, .afterStep _ _ (.environment _ Ports.idle (encode (.sSend msg1)) (by decide)
    (.afterReset cfgT (by decide))) rfl, ?_⟩
  rfl

theorem witness_LosslessRoundDelivers :
    (ready cfg4).S.state = .ready ∧ (ready cfg4).R.fatal = false ∧ (ready cfg4).S.curSeq = (ready cfg4).R.expSeq ∧
    (ready cfg4).failS = false ∧ (ready cfg4).failR = false ∧ (ready cfg4).rBusy = none ∧
    (ready cfg4).ports.rDlvReady = true ∧ msg1.length ≤ (ready cfg4).cfg.maxPayload.val := by decide

theorem witness_RetransmissionRecoversLostAck :
    let s := { waiting 2#16 with R := odd.R }
    s.Inv ∧ s.S.state = .waitAck ∧ s.R.fatal = false ∧ s.S.curSeq ≠ s.R.expSeq ∧ s.failS = false ∧
    s.failR = false ∧ s.rBusy = none ∧ s.S.timerCnt + 1#16 = s.cfg.timeoutTicks :=
  ⟨⟨by decide, waiting_sender_inv, odd_receiver_inv, by decide, by decide, by decide, by decide⟩, by decide⟩

/-- The wait begins, from the port and from the trace; lasts, with a reset or without; and ends. -/
theorem witness_UntakenPayloadHoldsReceiver :
    let s := { noApp with ports := { noApp.ports with rRx := some d0 } }
    let r := { stalled with ports := Ports.idle }
    (step s = .next stalled ∧ s.rBusy = none ∧ step traced = .next tracedWaiting ∧ traced.rBusy = none) ∧
    (step stalled = .next stalled ∧ stalled.rBusy = some msg1 ∧ stalled.ports.rDlvReady = false ∧
      tracedWaiting.traceWaits = true) ∧
    (∃ t, step { stalled with ports := { noApp.ports with rst := true } } = .next t) ∧
    ((∃ t, step r = .next t) ∧ r.rBusy = some msg1 ∧ r.ports.rDlvReady = true ∧ r.ports.rst = false) :=
  ⟨⟨rfl, rfl, rfl, rfl⟩, ⟨rfl, rfl, rfl, rfl⟩, ⟨_, rfl⟩, ⟨_, rfl⟩, rfl, rfl, rfl⟩

end Sys2Proof.Tests
end

section
/-! PROOFS. The checksum (40_checksum.md R130, R134): the fold as a residue modulo 65535, and a framed packet verifies. -/

namespace Sys2Proof.Machine

/-- The end value of the fold of R130: 0 for 0, else the representative of `n` modulo 65535 in 1 to 65535. -/
def foldResidue (n : Nat) : Nat := if n = 0 then 0 else (n - 1) % 0xFFFF + 1

theorem foldResidue_le (n : Nat) : foldResidue n ≤ 0xFFFF := by
  unfold foldResidue
  split <;> omega

theorem foldResidue_eq_max_iff (n : Nat) : foldResidue n = 0xFFFF ↔ n ≠ 0 ∧ n % 0xFFFF = 0 := by
  unfold foldResidue
  split <;> omega

theorem foldPass_eq (n : Nat) : foldPass n = n % 0x10000 + n / 0x10000 := by
  rw [foldPass, Nat.shiftRight_eq_div_pow, Nat.and_two_pow_sub_one_eq_mod n 16]

theorem foldResidue_foldPass (n : Nat) : foldResidue (foldPass n) = foldResidue n := by
  rw [foldPass_eq]
  unfold foldResidue
  split <;> split <;> omega

/-- The loop of R130 ends at the residue, when its bound leaves enough passes. -/
theorem foldCarries_eq_foldResidue {k n : Nat} (h : n ≤ k + 0xFFFF) : foldCarries k n = foldResidue n := by
  induction k generalizing n with
  | zero => rw [foldCarries, foldResidue]; split <;> omega
  | succ k ih =>
    rw [foldCarries]
    split
    · rw [ih (by rw [foldPass_eq]; omega), foldResidue_foldPass]
    · rw [foldResidue]; split <;> omega

theorem sum16_toNat (b : Bytes) : (sum16 b).toNat = foldResidue (wordSum b) := by
  have hle := foldResidue_le (wordSum b)
  rw [sum16, foldCarries_eq_foldResidue (by omega), BitVec.toNat_ofNat, Nat.mod_eq_of_lt (by omega)]

/-- `Verify` on the unfolded sum (R134). -/
theorem verify_iff (b : Bytes) : verify b = true ↔ wordSum b ≠ 0 ∧ wordSum b % 0xFFFF = 0 := by
  rw [verify, beq_iff_eq, ← BitVec.toNat_inj, sum16_toNat]
  exact foldResidue_eq_max_iff _

theorem word16_toNat (hi lo : Byte) : (word16 hi lo).toNat = hi.toNat * 256 + lo.toNat := by
  rw [word16, BitVec.toNat_append, ← Nat.shiftLeft_add_eq_or_of_lt lo.isLt, Nat.shiftLeft_eq]

/-- The two bytes of a 16-bit field are one word of the sum. -/
theorem be16_bytes_toNat (v : Word16) : (v.extractLsb' 8 8).toNat * 256 + (v.extractLsb' 0 8).toNat = v.toNat := by
  rw [← word16_toNat, word16_be16]

/-- The checksum field adds its value to the sum of the packet with a zero field: it is one aligned word (R90). -/
theorem wordSum_wireBytes (m : Magic) (c : Word16) (l : BitVec 14) (p : Bytes) (a q : Bool) :
    wordSum (wireBytes ⟨m, c, l, p⟩ a q) = wordSum (wireBytes ⟨m, 0#16, l, p⟩ a q) + c.toNat := by
  simp only [wireBytes, Magic.bytes, be16, List.cons_append, List.nil_append, wordSum, be16_bytes_toNat,
    BitVec.toNat_zero]
  omega

/-- `Verify(Encode(p, a, s))` (41_codec.md R153), for a payload of any length. -/
theorem verify_encodePacket (c : Config) (p : Bytes) (a q : Bool) : verify (encodePacket c p a q) = true := by
  have hs := sum16_toNat (wireBytes ⟨c.magic, 0#16, totalLengthOf p, p⟩ a q)
  rw [verify_iff, encodePacket, wordSum_wireBytes, checksum, BitVec.toNat_not, hs]
  unfold foldResidue
  split <;> omega

/-- The low header byte of a framed packet holds its class bits (30_encoding.md R91, R94). -/
theorem encodePacket_lowHeaderByte (c : Config) (p : Bytes) (a q : Bool) :
    ((encodePacket c p a q).getD 11 0#8).getLsbD 1 = a ∧ ((encodePacket c p a q).getD 11 0#8).getLsbD 0 = q := by
  have hb : (encodePacket c p a q).getD 11 0#8 = (packHeader (totalLengthOf p) a q).extractLsb' 0 8 := rfl
  rw [hb, BitVec.getLsbD_extractLsb', BitVec.getLsbD_extractLsb']
  exact ⟨headerAck_packHeader _ a q, headerSeq_packHeader _ a q⟩

end Sys2Proof.Machine
end

section
/-! PROOFS. Which transaction an instruction is to each engine, and what every transaction leaves alone. -/

namespace Sys2Proof.Machine

/-! ## Frames of the shared operations -/

theorem retransmit_frame (s : State) :
    (retransmit s).cfg = s.cfg ∧ (retransmit s).R = s.R ∧ (retransmit s).S.curSeq = s.S.curSeq := by
  cases h : s.failS
  · simp [retransmit_ok h]
  · simp [retransmit_err h]

theorem sendMessage_frame (m : Bytes) (s : State) :
    (sendMessage m s).cfg = s.cfg ∧ (sendMessage m s).R = s.R ∧ (sendMessage m s).S.curSeq = s.S.curSeq := by
  rcases Nat.lt_or_ge s.cfg.maxPayload.val m.length with hl | hl
  · simp [sendMessage_tooLong hl]
  · cases h : s.failS
    · simp [sendMessage_ok hl h]
    · simp [sendMessage_err hl h]

theorem senderTick_frame (s : State) :
    (senderTick s).cfg = s.cfg ∧ (senderTick s).R = s.R ∧ (senderTick s).S.curSeq = s.S.curSeq := by
  rcases senderTick_cases s with ⟨_, e⟩ | ⟨_, _, _, e⟩ | ⟨_, _, _, e⟩ <;> rw [e]
  · exact ⟨rfl, rfl, rfl⟩
  · exact ⟨rfl, rfl, rfl⟩
  · exact retransmit_frame _

theorem senderDatagram_frame (d : Bytes) (s : State) :
    (senderDatagram d s).cfg = s.cfg ∧ (senderDatagram d s).R = s.R := by
  unfold senderDatagram
  split
  · rcases handleResponse_cases d s with ⟨_, _, e⟩ | ⟨_, e⟩ <;> simp [e]
  · exact ⟨rfl, rfl⟩

theorem sendAck_frame (x : Bool) (s : State) :
    (sendAck x s).cfg = s.cfg ∧ (sendAck x s).S = s.S ∧ (sendAck x s).R.expSeq = s.R.expSeq ∧
      (sendAck x s).R.lastAck = s.R.lastAck := by
  cases h : s.failR
  · simp [sendAck_ok h]
  · simp [sendAck_err h]

/-- The accept branch flips the expected seqNum and keeps the one accepted (42_receiver.md R184). -/
theorem completeAccept_frame (p : Bytes) (s : State) :
    (completeAccept p s).cfg = s.cfg ∧ (completeAccept p s).S = s.S ∧
      (completeAccept p s).R.expSeq = (!s.R.expSeq) ∧ (completeAccept p s).R.lastAck = s.R.expSeq :=
  sendAck_frame s.R.expSeq (receiveAccept s.R.expSeq p s)

theorem receiverDatagram_frame (d : Bytes) (s : State) :
    (receiverDatagram d s).cfg = s.cfg ∧ (receiverDatagram d s).S = s.S := by
  rcases receiverDatagram_cases d s with ⟨_, e⟩ | ⟨_, e⟩ <;> rw [e]
  · exact ⟨rfl, rfl⟩
  · rcases receiveDatagram_cases d s with ⟨_, e⟩ | ⟨_, _, e⟩ | ⟨_, _, _, e⟩ | ⟨_, e⟩ <;> rw [e]
    · exact (sendAck_frame _ (receiveCorrupt s)).imp id And.left
    · exact (sendAck_frame _ (receiveDuplicate s)).imp id And.left
    · exact (completeAccept_frame _ s).imp id And.left
    · exact ⟨rfl, rfl⟩

/-! ## Instructions as transactions of an engine -/

/-- What an instruction is to the sender: nothing, a datagram, a message in READY, a tick, or reset. -/
theorem execState_senderCases (i : Instr) (s : State) :
    ((execState i s).cfg = s.cfg ∧ (execState i s).S = s.S) ∨
    (∃ d, Expected.toSender i = some d ∧ execState i s = senderDatagram d s) ∨
    (∃ m, i = .sSend m ∧ s.S.state = .ready ∧ execState i s = sendMessage m s) ∨
    (i = .sTick ∧ execState i s = senderTick s) ∨
    (i = .rst ∧ execState i s = resetEngines s) := by
  cases i with
  | dataSeq0 p => exact .inl (receiverDatagram_frame _ s)
  | dataSeq1 p => exact .inl (receiverDatagram_frame _ s)
  | rDgram d => exact .inl (receiverDatagram_frame d s)
  | ackSeq0 p => exact .inr (.inl ⟨_, rfl, rfl⟩)
  | ackSeq1 p => exact .inr (.inl ⟨_, rfl, rfl⟩)
  | sResp d => exact .inr (.inl ⟨d, rfl, rfl⟩)
  | sSend m =>
    by_cases h : s.S.state = .ready
    · exact .inr (.inr (.inl ⟨m, rfl, h, by simp [execState, h]⟩))
    · exact .inl (by simp [execState, h])
  | sTick => exact .inr (.inr (.inr (.inl ⟨rfl, rfl⟩)))
  | rst => exact .inr (.inr (.inr (.inr ⟨rfl, rfl⟩)))
  | cCsum b => exact .inl ⟨rfl, rfl⟩
  | cVerify b => exact .inl ⟨rfl, rfl⟩
  | cEncode a q p => exact .inl ⟨rfl, rfl⟩
  | cDecode b => exact .inl ⟨rfl, rfl⟩
  | hRead a => exact .inl ⟨rfl, rfl⟩
  | sTxFail => exact .inl ⟨rfl, rfl⟩
  | rTxFail => exact .inl ⟨rfl, rfl⟩

/-- What an instruction is to the receiver: nothing, a datagram, or reset. -/
theorem execState_receiverCases (i : Instr) (s : State) :
    (execState i s).R = s.R ∨
    (∃ d, Expected.toReceiver i = some d ∧ execState i s = receiverDatagram d s) ∨
    (i = .rst ∧ execState i s = resetEngines s) := by
  cases i with
  | dataSeq0 p => exact .inr (.inl ⟨_, rfl, rfl⟩)
  | dataSeq1 p => exact .inr (.inl ⟨_, rfl, rfl⟩)
  | rDgram d => exact .inr (.inl ⟨d, rfl, rfl⟩)
  | ackSeq0 p => exact .inl (senderDatagram_frame _ s).2
  | ackSeq1 p => exact .inl (senderDatagram_frame _ s).2
  | sResp d => exact .inl (senderDatagram_frame d s).2
  | sSend m =>
    by_cases h : s.S.state = .ready
    · exact .inl (by simpa [execState, h] using (sendMessage_frame m s).2.1)
    · exact .inl (by simp [execState, h])
  | sTick => exact .inl (senderTick_frame s).2.1
  | rst => exact .inr (.inr ⟨rfl, rfl⟩)
  | cCsum b => exact .inl rfl
  | cVerify b => exact .inl rfl
  | cEncode a q p => exact .inl rfl
  | cDecode b => exact .inl rfl
  | hRead a => exact .inl rfl
  | sTxFail => exact .inl rfl
  | rTxFail => exact .inl rfl

/-- No instruction writes a parameter (00_scope.md R6). -/
theorem execState_cfg (i : Instr) (s : State) : (execState i s).cfg = s.cfg := by
  rcases execState_senderCases i s with ⟨hc, _⟩ | ⟨d, _, e⟩ | ⟨m, _, _, e⟩ | ⟨_, e⟩ | ⟨_, e⟩
  · exact hc
  · rw [e]; exact (senderDatagram_frame d s).1
  · rw [e]; exact (sendMessage_frame m s).1
  · rw [e]; exact (senderTick_frame s).1
  · rw [e]; rfl

end Sys2Proof.Machine
end

section
/-! PROOFS. Who writes the sequence state: `S.curSeq` (10_state.md R22), `R.expSeq` and `R.lastAck` (R30). -/

namespace Sys2Proof.Machine

/-- The model's response test says what R213 says of the datagram. -/
theorem good_of_responseGood {c : Config} {d : Bytes} (h : responseGood c (decodeDatagram c d) = true) :
    Expected.good c d := by
  simpa [responseGood, decodeDatagram, sizeOk, hdrLen, Expected.good, and_assoc] using h

/-- A datagram with a header carries its seqNum in bit 0 of the header word (30_encoding.md R91). -/
theorem decodeDatagram_seqNum {c : Config} {d : Bytes} (h : 12 ≤ d.length) :
    (decodeDatagram c d).seqNum = (u16be d 10).getLsbD 0 := by
  simp [decodeDatagram, headerOf, hdrLen, h, headerSeq]

/-- A datagram that changes `S.curSeq` confirms the outstanding packet (43_sender.md R214). -/
theorem senderDatagram_confirms {d : Bytes} {s : State} (h : (senderDatagram d s).S.curSeq ≠ s.S.curSeq) :
    s.S.state = .waitAck ∧ Expected.good s.cfg d ∧ (u16be d 10).getLsbD 0 = s.S.curSeq ∧
      (senderDatagram d s).S.state = .ready := by
  unfold senderDatagram at h ⊢
  split at h
  next hw =>
    rcases handleResponse_cases d s with ⟨hg, hs, e⟩ | ⟨_, e⟩
    · have hgood := good_of_responseGood hg
      exact ⟨hw, hgood, by rw [← decodeDatagram_seqNum hgood.1, hs], by simp [hw, e]⟩
    · exact absurd (by rw [e]) h
  next => exact absurd rfl h

/-- Settles O32, by what the instruction is to the sender: a datagram is the only one that writes `S.curSeq`. -/
theorem onlyConfirmationFlipsCurSeq : Obligations.OnlyConfirmationFlipsCurSeq := by
  intro i s t h
  obtain rfl := exec_next_iff.mp h
  refine ⟨fun hi => by subst hi; rfl, fun hi hne => ?_⟩
  rcases execState_senderCases i s with ⟨_, hS⟩ | ⟨d, hd, e⟩ | ⟨m, _, _, e⟩ | ⟨_, e⟩ | ⟨hr, _⟩
  · exact absurd (by rw [hS]) hne
  · rw [e] at hne ⊢
    exact ⟨d, hd, senderDatagram_confirms hne⟩
  · exact absurd (by rw [e]; exact (sendMessage_frame m s).2.2) hne
  · exact absurd (by rw [e]; exact (senderTick_frame s).2.2) hne
  · exact absurd hr hi

/-- A datagram at the receiver leaves the sequence state alone, or is accepted (42_receiver.md R182, R183, R184). -/
theorem receiverDatagram_sequenceCases (d : Bytes) (s : State) :
    ((receiverDatagram d s).R.expSeq = s.R.expSeq ∧ (receiverDatagram d s).R.lastAck = s.R.lastAck) ∨
    (s.R.fatal = false ∧ (decodeDatagram s.cfg d).valid = true ∧ (decodeDatagram s.cfg d).seqNum = s.R.expSeq ∧
      (receiverDatagram d s).R.expSeq = (!s.R.expSeq) ∧ (receiverDatagram d s).R.lastAck = s.R.expSeq) := by
  rcases receiverDatagram_cases d s with ⟨_, e⟩ | ⟨hr, e⟩ <;> rw [e]
  · exact .inl ⟨rfl, rfl⟩
  · rcases receiveDatagram_cases d s with ⟨_, e⟩ | ⟨_, _, e⟩ | ⟨hv, hs, _, e⟩ | ⟨_, e⟩ <;> rw [e]
    · exact .inl (sendAck_frame _ (receiveCorrupt s)).2.2
    · exact .inl (sendAck_frame _ (receiveDuplicate s)).2.2
    · exact .inr ⟨(rRxReady_eq_true.mp hr).1, hv, hs, (completeAccept_frame _ s).2.2⟩
    · exact .inl ⟨rfl, rfl⟩

/-- Settles O39, by what the instruction is to the receiver and the branch its datagram takes. -/
theorem onlyAcceptWritesSequenceState : Obligations.OnlyAcceptWritesSequenceState := by
  intro i s t h hi hne
  obtain rfl := exec_next_iff.mp h
  rcases execState_receiverCases i s with hR | ⟨d, hd, e⟩ | ⟨hr, _⟩
  · simp [hR] at hne
  · rw [e] at hne ⊢
    rcases receiverDatagram_sequenceCases d s with ⟨hx, hl⟩ | ha
    · simp [hx, hl] at hne
    · exact ⟨d, hd, ha⟩
  · exact absurd hr hi

end Sys2Proof.Machine
end

section
/-! PROOFS. The invariants of 10_state.md R27 and R31 along every run: they hold after reset, and every transaction
keeps them. -/

namespace Sys2Proof.Machine

/-! ## The sender's invariant -/

theorem timeoutTicks_pos_of_wf {c : Config} (h : c.wf = true) : 0#16 < c.timeoutTicks := by
  simp [Config.wf] at h
  bv_omega

/-- Outside WAIT_ACK the invariant asks for a timer at rest, a buffer within its size and the right cause code. -/
theorem Sender.inv_of_notWaiting {c : Config} {x : Sender} (hw : x.state ≠ .waitAck) (ht : x.timerArmed = false)
    (hc : x.timerCnt = 0#16) (hb : Memory.wf c x.outBuf = true) (hf : x.state = .fatal ↔ x.last = .fatal) :
    x.Inv c where
  readyDisarmed _ := ht
  waitArmed h := absurd h hw
  waitCount h := absurd h hw
  waitHeader h := absurd h hw
  waitData h := absurd h hw
  waitSeq h := absurd h hw
  waitVerifies h := absurd h hw
  waitLength h := absurd h hw
  bufferSize := hb
  fatalDisarmed _ := ht
  disarmedZero _ := hc
  fatalCause := hf

/-- In WAIT_ACK a new timer value below the timeout, retransmission count and cause code keep the invariant. -/
theorem Sender.Inv.restart {c : Config} {x : Sender} {n r : Word16} {l : SCause} (h : x.Inv c)
    (hw : x.state = .waitAck) (hn : n < c.timeoutTicks) (hl : l ≠ .fatal) :
    Sender.Inv c { x with retx := r, timerArmed := true, timerCnt := n, last := l } :=
  { h with
    readyDisarmed := fun hr => by simp [hw] at hr
    waitArmed := fun _ => rfl
    waitCount := fun _ => hn
    fatalDisarmed := fun hf => by simp [hw] at hf
    disarmedZero := fun hd => by simp at hd
    fatalCause := by simp [hw, hl] }

/-- Reset establishes the invariant (R52). -/
theorem senderInv_reset (c : Config) (n : Nat) : (Sender.reset (resetOutBuf c n)).Inv c :=
  Sender.inv_of_notWaiting (by simp [Sender.reset]) rfl rfl (resetOutBuf_wf c n) (by simp [Sender.reset])

/-- The length of a framed message fits its field `S.outLen` (20_memory.md R64, 00_scope.md R6). -/
theorem outLen_encodePacket {c : Config} {m : Bytes} (h : m.length ≤ c.maxPayload.val) (a q : Bool) :
    (BitVec.ofNat 14 (encodePacket c m a q).length).toNat = 12 + m.length := by
  have hmax := c.maxPayload.isLt
  rw [encodePacket_length, BitVec.toNat_ofNat, Nat.mod_eq_of_lt (by omega)]

theorem senderInv_sendMessage {m : Bytes} {s : State} (hc : s.cfg.wf = true) (h : s.S.Inv s.cfg)
    (hr : s.S.state = .ready) : (sendMessage m s).S.Inv s.cfg := by
  have hidle := h.readyDisarmed hr
  rcases Nat.lt_or_ge s.cfg.maxPayload.val m.length with hl | hl
  · rw [sendMessage_tooLong hl]
    exact Sender.inv_of_notWaiting (by simp [hr]) hidle (h.disarmedZero hidle) h.bufferSize (by simp [hr])
  · have hbuf := encodePacket_wf hl false s.S.curSeq
    have hlen := outLen_encodePacket hl false s.S.curSeq
    obtain ⟨hdata, hseq⟩ := encodePacket_lowHeaderByte s.cfg m false s.S.curSeq
    cases hf : s.failS
    · rw [sendMessage_ok hl hf]
      exact
        { readyDisarmed := nofun
          waitArmed := fun _ => rfl
          waitCount := fun _ => timeoutTicks_pos_of_wf hc
          waitHeader := fun _ => by rw [hlen]; omega
          waitData := fun _ => hdata
          waitSeq := fun _ => hseq
          waitVerifies := fun _ => verify_encodePacket _ _ _ _
          waitLength := fun _ => by rw [hlen, encodePacket_length]
          bufferSize := hbuf
          fatalDisarmed := nofun
          disarmedZero := nofun
          fatalCause := by simp }
    · rw [sendMessage_err hl hf]
      exact Sender.inv_of_notWaiting (by simp) rfl rfl hbuf (by simp)

theorem senderInv_senderDatagram {d : Bytes} {s : State} (hc : s.cfg.wf = true) (h : s.S.Inv s.cfg) :
    (senderDatagram d s).S.Inv s.cfg := by
  unfold senderDatagram
  split
  next hw =>
    rcases handleResponse_cases d s with ⟨_, _, e⟩ | ⟨_, e⟩ <;> rw [e]
    · exact Sender.inv_of_notWaiting (by simp) rfl rfl h.bufferSize (by simp)
    · exact h.restart hw (timeoutTicks_pos_of_wf hc) (by split <;> simp)
  next => exact h

theorem senderInv_retransmit {s : State} (hc : s.cfg.wf = true) (h : s.S.Inv s.cfg) (hw : s.S.state = .waitAck) :
    (retransmit s).S.Inv s.cfg := by
  cases hf : s.failS
  · rw [retransmit_ok hf]
    exact h.restart hw (timeoutTicks_pos_of_wf hc) (by simp)
  · rw [retransmit_err hf]
    exact Sender.inv_of_notWaiting (by simp) rfl rfl h.bufferSize (by simp)

/-- `Retransmit` does not read the count: it clears it in both answers (43_sender.md R219). -/
theorem retransmit_timerCnt (n : Word16) (s : State) :
    retransmit { s with S := { s.S with timerCnt := n } } = retransmit s := by
  rcases Bool.eq_false_or_eq_true s.failS with hf | hf
  · rw [retransmit_err hf]; exact retransmit_err hf
  · rw [retransmit_ok hf]; exact retransmit_ok hf

theorem senderInv_senderTick {s : State} (hc : s.cfg.wf = true) (h : s.S.Inv s.cfg) :
    (senderTick s).S.Inv s.cfg := by
  rcases senderTick_cases s with ⟨_, e⟩ | ⟨hw, harmed, hne, e⟩ | ⟨hw, _, _, e⟩ <;> rw [e]
  · exact h
  · have hlt := h.waitCount hw
    have hcnt : s.S.timerCnt + 1#16 < s.cfg.timeoutTicks := by bv_omega
    have hlast : s.S.last ≠ .fatal := fun hf => by simp [h.fatalCause.mpr hf] at hw
    have hinv := h.restart (r := s.S.retx) hw hcnt hlast
    rwa [← harmed] at hinv
  · rw [retransmit_timerCnt]
    exact senderInv_retransmit hc h hw

theorem senderInv_execState (i : Instr) {s : State} (hc : s.cfg.wf = true) (h : s.S.Inv s.cfg) :
    (execState i s).S.Inv s.cfg := by
  rcases execState_senderCases i s with ⟨_, hS⟩ | ⟨d, _, e⟩ | ⟨m, _, hr, e⟩ | ⟨_, e⟩ | ⟨_, e⟩
  · rwa [hS]
  · rw [e]; exact senderInv_senderDatagram hc h
  · rw [e]; exact senderInv_sendMessage hc h hr
  · rw [e]; exact senderInv_senderTick hc h
  · rw [e]; exact senderInv_reset s.cfg s.draws

/-! ## The receiver's invariant -/

theorem execState_ackComplement (i : Instr) {s : State} (h : s.R.lastAck = !s.R.expSeq) :
    (execState i s).R.lastAck = !(execState i s).R.expSeq := by
  rcases execState_receiverCases i s with hR | ⟨d, _, e⟩ | ⟨_, e⟩
  · rwa [hR]
  · rw [e]
    rcases receiverDatagram_sequenceCases d s with ⟨hx, hl⟩ | ⟨_, _, _, hx, hl⟩
    · rw [hx, hl, h]
    · rw [hx, hl, Bool.not_not]
  · rw [e]; rfl

/-! ## Along a run -/

/-- What 10_state.md R27 and R31 need to hold along a run: legal parameters, the sender's invariant and the receiver's
complement. -/
structure SpecInv (s : State) : Prop where
  config        : s.cfg.wf = true
  sender        : s.S.Inv s.cfg
  ackComplement : s.R.lastAck = !s.R.expSeq

/-- It speaks of the parameters and the two engines only. -/
theorem SpecInv.of_engines_eq {s t : State} (h : SpecInv s) (hc : t.cfg = s.cfg) (hS : t.S = s.S) (hR : t.R = s.R) :
    SpecInv t where
  config := hc ▸ h.config
  sender := by rw [hS, hc]; exact h.sender
  ackComplement := by rw [hR]; exact h.ackComplement

theorem specInv_resetWith {c : Config} (h : c.wf = true) : SpecInv (State.resetWith c) where
  config := h
  sender := senderInv_reset c 0
  ackComplement := rfl

theorem specInv_execState {s : State} (h : SpecInv s) (i : Instr) : SpecInv (execState i s) where
  config := by rw [execState_cfg]; exact h.config
  sender := by rw [execState_cfg]; exact senderInv_execState i h.config h.sender
  ackComplement := execState_ackComplement i h.ackComplement

theorem specInv_completeAccept {s : State} (h : SpecInv s) (p : Bytes) : SpecInv (completeAccept p s) := by
  obtain ⟨hc, hS, hx, hl⟩ := completeAccept_frame p s
  exact
    { config := hc ▸ h.config
      sender := by rw [hS, hc]; exact h.sender
      ackComplement := by rw [hx, hl, Bool.not_not] }

/-- Taking an offer or a record and counting it (`finish`) touch neither engine; what is between keeps the invariant. -/
theorem specInv_step {s t : State} (h : SpecInv s) (hst : step s = .next t) : SpecInv t := by
  rcases step_cases hst with rfl | ⟨q, _, _, _, rfl⟩ | ⟨i, p, b, _, _, _, rfl⟩ | ⟨i, p, b, w, _, _, _, rfl⟩
  · exact h
  · have h0 : SpecInv { s with rBusy := none, traceWaits := false } := h.of_engines_eq rfl rfl rfl
    exact (specInv_completeAccept h0 q).of_engines_eq rfl rfl rfl
  · have h0 : SpecInv { s with ports := p, trace := b } := h.of_engines_eq rfl rfl rfl
    exact (specInv_execState h0 i).of_engines_eq rfl rfl rfl
  · have h0 : SpecInv { s with ports := p, trace := b, traceWaits := w } := h.of_engines_eq rfl rfl rfl
    exact specInv_execState h0 i

theorem Reachable.specInv {s : State} (h : Reachable s) : SpecInv s := by
  induction h with
  | afterReset c hc => exact specInv_resetWith hc
  | afterStep s t _ hst ih => exact specInv_step ih hst
  | environment s p b _ _ ih => exact ih.of_engines_eq rfl rfl rfl

/-- While a packet is outstanding its low header byte lies in the buffer, so what is read past the end does not matter. -/
theorem Sender.Inv.lowHeaderByte {c : Config} {x : Sender} (h : x.Inv c) (hw : x.state = .waitAck) (v : Byte) :
    x.outBuf.getD 11 v = x.outBuf.getD 11 0#8 := by
  have hin : 11 < x.outBuf.length := by
    have h12 := h.waitHeader hw
    have hlen := h.waitLength hw
    omega
  rw [List.getD_eq_getElem _ _ hin, List.getD_eq_getElem _ _ hin]

/-- Settles O57, by induction on reachability: `SpecInv` holds after reset and every step and placement keeps it. -/
theorem reachableStatesKeepSpecInvariants : Obligations.ReachableStatesKeepSpecInvariants := by
  intro s hs
  obtain ⟨_, hS, hR⟩ := hs.specInv
  refine ⟨hS.readyDisarmed, fun hw => ⟨hS.waitArmed hw, hS.waitCount hw⟩, fun hw => ?_, hS.waitVerifies, hR⟩
  rw [hS.lowHeaderByte hw]
  exact ⟨hS.waitHeader hw, hS.waitData hw, hS.waitSeq hw⟩

end Sys2Proof.Machine
end

section
/-! PROOFS. The encodings of 30_encoding.md: the packed header (R91), the ack packet (R95), the example records (R111). -/

namespace Sys2Proof.Machine

/-- R91's `(totalLength << 2) | (ackFlag << 1) | seqNum` as a sum: each flag is appended below the bits before it. -/
theorem packHeader_toNat (l : BitVec 14) (a q : Bool) :
    (packHeader l a q).toNat = l.toNat * 4 + a.toNat * 2 + q.toNat := by
  have hp : packHeader l a q = (l.concat a).concat q := rfl
  rw [hp, BitVec.toNat_concat, BitVec.toNat_concat]
  omega

/-- The high byte of a packed header lies within its length field: bit 8 of `H` is bit 6 of totalLength. -/
theorem packHeader_highByte (l : BitVec 14) (a q : Bool) :
    (packHeader l a q).extractLsb' 8 8 = l.extractLsb' 6 8 := by
  apply BitVec.eq_of_getLsbD_eq
  intro i hi
  have hbit : 8 + i = 6 + i + 1 + 1 := by omega
  simp only [packHeader, BitVec.getLsbD_extractLsb', BitVec.getLsbD_append, hbit]
  simp [hi]

/-- The low byte of a packed header: the low six bits of its length field and the two flags. -/
theorem packHeader_lowByte (l : BitVec 14) (a q : Bool) :
    (packHeader l a q).extractLsb' 0 8 = l.extractLsb' 0 6 ++ BitVec.ofBool a ++ BitVec.ofBool q := by
  apply BitVec.eq_of_getLsbD_eq
  intro i hi
  simp only [packHeader, BitVec.getLsbD_extractLsb', BitVec.getLsbD_append]
  rcases i with _ | _ | i
  · simp
  · simp
  · have h6 : i < 6 := by omega
    simp [h6, hi]

/-- Settles O6, by the packed header's value and its two bytes, which follow the magic and the checksum. -/
theorem packedHeaderLayout : Obligations.PackedHeaderLayout := by
  intro p a q
  have h10 : (wireBytes p a q).getD 10 0#8 = (packHeader p.totalLength a q).extractLsb' 8 8 := rfl
  have h11 : (wireBytes p a q).getD 11 0#8 = (packHeader p.totalLength a q).extractLsb' 0 8 := rfl
  exact ⟨packHeader_toNat _ a q, h10.trans (packHeader_highByte _ a q), h11.trans (packHeader_lowByte _ a q)⟩

/-- The header of the ack packet (R95): totalLength 12 and ackFlag give `0x0032`, the seqNum is bit 0. -/
theorem packHeader_ack (q : Bool) :
    packHeader (totalLengthOf []) true q = 0x0032#16 ||| (BitVec.ofBool q).setWidth 16 := by
  cases q <;> decide

/-- A packet without payload is its magic, its checksum and its header (R90). -/
theorem wireBytes_nil (m : Magic) (c : Word16) (l : BitVec 14) (a q : Bool) :
    wireBytes ⟨m, c, l, []⟩ a q = m.bytes ++ be16 c ++ be16 (packHeader l a q) := by
  rw [wireBytes, List.append_nil]

/-- Settles O8: the ack packet has no payload, and its checksum is over the same bytes with a zero checksum field. -/
theorem ackPacketBytes : Obligations.AckPacketBytes := by
  intro c q
  have h0 : be16 0#16 = [0x00#8, 0x00#8] := by decide
  rw [encodePacket, wireBytes_nil, wireBytes_nil, packHeader_ack, h0]

/-- Settles O5: the decoder evaluates each of R111's records to its transaction and leaves no byte over. -/
theorem exampleRecordsDecode : Obligations.ExampleRecordsDecode := ⟨rfl, rfl, rfl, rfl⟩

end Sys2Proof.Machine
end

section
/-! PROOFS. `Sum16` and `Verify` (40_checksum.md R131 to R134): the values of the residue, and the narrow accumulator. -/

namespace Sys2Proof.Machine

/-! ## The residue -/

theorem foldResidue_eq_zero_iff (n : Nat) : foldResidue n = 0 ↔ n = 0 := by
  unfold foldResidue
  split <;> omega

theorem foldResidue_of_le {n : Nat} (h : n ≤ 0xFFFF) : foldResidue n = n := by
  unfold foldResidue
  split <;> omega

/-- The residue of a positive number is its one representative in 1 to 0xFFFF. -/
theorem eq_foldResidue_iff {n : Nat} (hn : n ≠ 0) (v : Nat) :
    1 ≤ v ∧ v ≤ 0xFFFF ∧ v % 0xFFFF = n % 0xFFFF ↔ v = foldResidue n := by
  rw [foldResidue, if_neg hn]
  omega

/-! ## `Sum16` in terms of the unfolded sum -/

theorem byte_toNat_eq_zero_iff (x : Byte) : x.toNat = 0 ↔ x = 0#8 := by
  rw [← BitVec.toNat_inj, BitVec.toNat_zero]

/-- A sum of bytes is 0 only when they all are (R131). -/
theorem wordSum_eq_zero_iff (b : Bytes) : wordSum b = 0 ↔ ∀ x ∈ b, x = 0#8 := by
  induction b using wordSum.induct with
  | case1 => simp [wordSum]
  | case2 hi => simp [wordSum, byte_toNat_eq_zero_iff]
  | case3 hi lo rest ih => simp [wordSum, byte_toNat_eq_zero_iff, ih, and_assoc]

theorem sum16_eq_zero_iff (b : Bytes) : sum16 b = 0#16 ↔ wordSum b = 0 := by
  rw [← BitVec.toNat_inj, sum16_toNat]
  exact foldResidue_eq_zero_iff _

/-- The test of R134. -/
theorem verify_iff_sum16 (b : Bytes) : verify b = true ↔ sum16 b = 0xFFFF#16 := beq_iff_eq

theorem sum16_eq_max_iff (b : Bytes) : sum16 b = 0xFFFF#16 ↔ 0 < wordSum b ∧ 0xFFFF ∣ wordSum b := by
  rw [← verify_iff_sum16, verify_iff, Nat.pos_iff_ne_zero, Nat.dvd_iff_mod_eq_zero]

/-- Settles O12: the fold ends at the residue of the word sum, which is 0 for 0 and else the representative in 1 to
0xFFFF. -/
theorem sum16RangeAndCongruence : Obligations.Sum16RangeAndCongruence := by
  intro b
  refine ⟨?_, (sum16_eq_zero_iff b).trans (wordSum_eq_zero_iff b), fun hne v => ?_, sum16_eq_max_iff b⟩
  · rw [foldCarries_eq_foldResidue (Nat.le_add_right _ _)]
    exact foldResidue_le _
  · rw [sum16_toNat]
    exact eq_foldResidue_iff (fun h0 => hne ((sum16_eq_zero_iff b).mpr h0)) v

theorem checksum_toNat (b : Bytes) : (checksum b).toNat = 0xFFFF - (sum16 b).toNat := BitVec.toNat_not

/-- Settles O13: the complement of 16 bits subtracts from 0xFFFF, and R134's test is an equation. -/
theorem checksumComplementsSum16 : Obligations.ChecksumComplementsSum16 := by
  intro b
  refine ⟨checksum_toNat b, fun h => ?_, fun h => ?_, verify_iff_sum16 b⟩
  · rw [checksum, h]; rfl
  · rw [checksum, h]; rfl

/-! ## The narrow accumulator (R132) -/

/-- Every word adds at most 0xFFFF, and a last odd byte makes a word of its own. -/
theorem wordSum_le (b : Bytes) : wordSum b ≤ 0xFFFF * ((b.length + 1) / 2) := by
  induction b using wordSum.induct with
  | case1 => simp [wordSum]
  | case2 hi =>
    have := hi.isLt
    simp only [wordSum, List.length_singleton]
    omega
  | case3 hi lo rest ih =>
    have := hi.isLt
    have := lo.isLt
    simp only [wordSum, List.length_cons]
    omega

theorem foldPass_le_of_lt {n : Nat} (h : n < 2 ^ 31) : foldPass n ≤ 0xFFFF + 0x7FFF := by
  rw [foldPass_eq]
  omega

theorem foldPass_le_max {n : Nat} (h : n ≤ 0xFFFF + 0x7FFF) : foldPass n ≤ 0xFFFF := by
  rw [foldPass_eq]
  omega

/-- Settles O14: each pass keeps the residue, and what two passes leave is small enough to be the residue itself. -/
theorem narrowAccumulatorSuffices : Obligations.NarrowAccumulatorSuffices := by
  intro b hb
  have hsum : wordSum b < 2 ^ 31 := by
    have := wordSum_le b
    omega
  have h1 := foldPass_le_of_lt hsum
  have h2 := foldPass_le_max h1
  have h32 : (BitVec.ofNat 32 (wordSum b)).toNat = wordSum b := by rw [BitVec.toNat_ofNat]; omega
  refine ⟨hsum, h1, h2, ?_⟩
  rw [h32, sum16_toNat, ← foldResidue_foldPass, ← foldResidue_foldPass (foldPass _), foldResidue_of_le h2]

end Sys2Proof.Machine
end

section
/-! PROOFS. The word sum of parts (40_checksum.md R135, R138): strings that meet at a word boundary, a word written over
another, and words in another order. -/

namespace Sys2Proof.Machine

/-- Strings that meet at a word boundary sum to the sum of their words (R130). -/
theorem wordSum_append {a : Bytes} (h : a.length % 2 = 0) (b : Bytes) : wordSum (a ++ b) = wordSum a + wordSum b := by
  induction a using wordSum.induct with
  | case1 => simp [wordSum]
  | case2 hi => simp at h
  | case3 hi lo rest ih =>
    have hrest : rest.length % 2 = 0 := by simp only [List.length_cons] at h; omega
    simp only [List.cons_append, wordSum, ih hrest]
    omega

theorem wordSum_pair (hi lo : Byte) : wordSum [hi, lo] = (word16 hi lo).toNat := by
  rw [word16_toNat, wordSum, wordSum, Nat.add_zero]

/-- A last odd byte is a high byte over 00 (20_memory.md R63). -/
theorem wordSum_singleton (hi : Byte) : wordSum [hi] = (word16 hi 0#8).toNat := by
  rw [word16_toNat, wordSum, BitVec.toNat_zero, Nat.add_zero]

theorem wordSum_be16_append (v : Word16) (b : Bytes) : wordSum (be16 v ++ b) = v.toNat + wordSum b := by
  simp only [be16, List.cons_append, List.nil_append, wordSum, be16_bytes_toNat]

/-- From an offset within a string there follow the word at it and what is after that word. -/
theorem drop_eq_word_append {z : Bytes} {k : Nat} (h : k + 2 ≤ z.length) :
    z.drop k = z.getD k 0#8 :: z.getD (k + 1) 0#8 :: z.drop (k + 2) := by
  rw [List.drop_eq_getElem_cons (by omega), List.drop_eq_getElem_cons (by omega),
    List.getD_eq_getElem _ _ (by omega), List.getD_eq_getElem _ _ (by omega)]

/-- A word written over an aligned word takes its place in the sum. -/
theorem wordSum_memWrite_be16 {z : Bytes} {k : Nat} (hk : k % 2 = 0) (h : k + 2 ≤ z.length) (v : Word16) :
    wordSum (memWrite z k (be16 v)) + (u16be z k).toNat = wordSum z + v.toNat := by
  have hpre : (z.take k).length % 2 = 0 := by rw [List.length_take]; omega
  have hz : wordSum z = wordSum (z.take k) + ((u16be z k).toNat + wordSum (z.drop (k + 2))) := by
    conv_lhs => rw [← List.take_append_drop k z, wordSum_append hpre, drop_eq_word_append h]
    rw [wordSum, u16be, word16_toNat]
  rw [memWrite, List.append_assoc, wordSum_append hpre, wordSum_be16_append, be16_length, hz]
  omega

/-- A string whose word sum is that of `z` and the checksum of `z` verifies (R135). -/
theorem verify_of_wordSum_eq {p z : Bytes} (h : wordSum p = wordSum z + (checksum z).toNat) : verify p = true := by
  rw [verify_iff, h, checksum_toNat, sum16_toNat, foldResidue]
  split <;> omega

/-- Settles O15: the checksum is written over a zero word at an even offset, so it is added to the word sum. -/
theorem insertedChecksumVerifies : Obligations.InsertedChecksumVerifies := by
  intro z hlen h8 h9
  have hfield : u16be z 8 = 0#16 := by
    rw [List.getD_eq_getElem _ _ (by omega)] at h8 h9
    rw [u16be, List.getD_eq_getElem _ _ (by omega), List.getD_eq_getElem _ _ (by omega), h8, h9]
    rfl
  have hsum := wordSum_memWrite_be16 (k := 8) rfl hlen (checksum z)
  rw [hfield] at hsum
  exact verify_of_wordSum_eq hsum

/-- The sum of R130 is the sum over the words that it names. -/
theorem wordSum_eq_sum_words (b : Bytes) : wordSum b = ((Expected.words b).map BitVec.toNat).sum := by
  induction b using wordSum.induct with
  | case1 => rfl
  | case2 hi => simp [wordSum_singleton, Expected.words]
  | case3 hi lo rest ih => simp [wordSum, Expected.words, word16_toNat, ih]

theorem sum16_eq_of_wordSum_eq {b b' : Bytes} (h : wordSum b = wordSum b') : sum16 b = sum16 b' := by
  rw [sum16, sum16, h]

theorem word16_swap_ne {hi lo : Byte} (h : hi ≠ lo) : (word16 hi lo).toNat ≠ (word16 lo hi).toNat := by
  rw [word16_toNat, word16_toNat]
  have := hi.isLt
  have := lo.isLt
  have := BitVec.toNat_ne.mp h
  omega

/-- Settles O19: a sum does not depend on the order of its terms, and a word's high byte weighs 256 times its low byte. -/
theorem wordOrderIsIrrelevant : Obligations.WordOrderIsIrrelevant := by
  refine ⟨fun b b' h => sum16_eq_of_wordSum_eq ?_, fun hi lo h => ?_⟩
  · rw [wordSum_eq_sum_words, wordSum_eq_sum_words]
    exact (h.map _).sum_eq
  · have hne := word16_swap_ne h
    exact ⟨fun e => hne (congrArg _ e), by rwa [wordSum_pair, wordSum_pair]⟩

end Sys2Proof.Machine
end

section
/-! PROOFS. The streaming sum (40_checksum.md R137): end-around carry keeps the residue of what was read. -/

namespace Sys2Proof.Machine

/-- Adding after the fold, or before it. -/
theorem foldResidue_add (n m : Nat) : foldResidue (foldResidue n + m) = foldResidue (n + m) := by
  unfold foldResidue
  split <;> split <;> split <;> omega

/-- One end-around carry folds the sum of two 16-bit values. -/
theorem add1c_toNat (a w : Word16) : (add1c a w).toNat = foldResidue (a.toNat + w.toNat) := by
  have ha := a.isLt
  have hw := w.isLt
  rw [add1c, foldResidue]
  split <;> split <;> rw [BitVec.toNat_ofNat] <;> omega

/-- Before an even byte the streaming sum holds the residue of the words read, whatever byte `hi` keeps. -/
theorem streamEnd_foldl_toNat (b : Bytes) (acc : Word16) (hi : Byte) :
    (streamEnd (b.foldl streamByte ⟨acc, false, hi⟩)).toNat = foldResidue (acc.toNat + wordSum b) := by
  induction b using wordSum.induct generalizing acc hi with
  | case1 => exact (foldResidue_of_le (Nat.le_of_lt_succ acc.isLt)).symm
  | case2 x =>
    rw [wordSum_singleton]
    exact add1c_toNat acc _
  | case3 x y rest ih =>
    calc _ = foldResidue ((add1c acc (word16 x y)).toNat + wordSum rest) := ih _ _
      _ = foldResidue (acc.toNat + wordSum (x :: y :: rest)) := by
        rw [add1c_toNat, foldResidue_add, word16_toNat, wordSum, Nat.add_assoc]

/-- Settles O18: both forms give the residue of the word sum. -/
theorem streamingSumEqualsSum16 : Obligations.StreamingSumEqualsSum16 := by
  intro b
  have h := streamEnd_foldl_toNat b 0#16 0#8
  rw [BitVec.toNat_zero, Nat.zero_add, ← sum16_toNat] at h
  exact BitVec.eq_of_toNat_eq h

end Sys2Proof.Machine
end

section
/-! PROOFS. The codec port (40_checksum.md R140, R141; 41_codec.md R156, R159 to R161): the fields of `Decode`, the two
status bytes, and the responses. -/

namespace Sys2Proof.Machine

/-! ## Decode -/

theorem sizeOk_iff (c : Config) (b : Bytes) : sizeOk c b = true ↔ 12 ≤ b.length ∧ b.length ≤ c.maxDgram := by
  rw [sizeOk, Bool.and_eq_true, decide_eq_true_iff, decide_eq_true_iff]

theorem headerOf_of_le {b : Bytes} (h : 12 ≤ b.length) : headerOf b = u16be b 10 := if_pos h

theorem headerOf_of_lt {b : Bytes} (h : b.length < 12) : headerOf b = 0#16 := if_neg (Nat.not_le_of_lt h)

/-- `H >> 2` is totalLength (20_memory.md R64). -/
theorem headerLength_toNat (h : Word16) : (headerLength h).toNat = h.toNat / 4 := by
  have := h.isLt
  rw [headerLength, BitVec.extractLsb'_toNat, Nat.shiftRight_eq_div_pow]
  omega

/-- The payload of a datagram of a good size is all that follows its header. -/
theorem decodeDatagram_payload {c : Config} {b : Bytes} (h : sizeOk c b = true) :
    (decodeDatagram c b).payload = b.drop 12 := by
  have hp : (decodeDatagram c b).payload = memRead b hdrLen (b.length - hdrLen) := if_pos h
  rw [hp, memRead, ← List.length_drop, List.take_length]

theorem decodeDatagram_payload_of_badSize {c : Config} {b : Bytes} (h : sizeOk c b = false) :
    (decodeDatagram c b).payload = [] := if_neg (ne_true_of_eq_false h)

theorem sizeOk_of_lt {c : Config} {b : Bytes} (h : b.length < 12) : sizeOk c b = false :=
  Bool.eq_false_iff.mpr fun hs => Nat.not_le_of_lt h ((sizeOk_iff c b).mp hs).1

/-! ## Bytes of records and responses -/

/-- The flags byte of `C_ENCODE` (30_encoding.md R109, T2). -/
theorem encodeFlags_toNat (a q : Bool) :
    (0#6 ++ BitVec.ofBool a ++ BitVec.ofBool q : BitVec (6 + 1 + 1)).toNat = a.toNat * 2 + q.toNat := by
  cases a <;> cases q <;> decide

/-- The status byte of `C_DECODE` (R161). -/
theorem decodeStatus_toNat (d : Decoded) :
    (decodeStatus d).toNat = d.valid.toNat * 4 + d.sizeOk.toNat * 2 + d.csumOk.toNat := by
  unfold decodeStatus
  generalize d.valid = v, d.sizeOk = z, d.csumOk = k
  revert v z k
  decide

/-- The byte of `C_VERIFY` tells the two results apart (R141). -/
theorem verifyByte_iff (v : Bool) :
    ((if v then 0x01#8 else 0x00#8) = 0x01#8 ↔ v = true) ∧ ((if v then 0x01#8 else 0x00#8) = 0x00#8 ↔ v = false) := by
  revert v
  decide

theorem encodeResponse_tooLong {c : Config} {p : Bytes} (h : c.maxPayload.val < p.length) (a q : Bool) :
    encodeResponse c a q p = [0x01#8] := if_pos h

theorem encodeResponse_ok {c : Config} {p : Bytes} (h : p.length ≤ c.maxPayload.val) (a q : Bool) :
    encodeResponse c a q p = 0x00#8 :: encodePacket c p a q := if_neg (Nat.not_lt_of_le h)

/-- A codec response is one event; nothing else of the state changes. -/
theorem respondCodec_eq (b : Bytes) (s : State) :
    respondCodec b s = { s with log := Expected.logged s [.cRsp b] } := rfl

/-- Settles O24, clause by clause: the encodings, `Decode` by the datagram's size, and each transaction as its one
response. -/
theorem codecPortResponds : Obligations.CodecPortResponds := by
  intro s
  refine ⟨fun b => ⟨rfl, rfl, rfl, fun f => ⟨rfl, rfl, rfl, rfl⟩⟩, fun a q p => ⟨_, encodeFlags_toNat a q, rfl⟩,
    fun b => ?decode, fun b => ?csum, fun b => ?verify, fun a q p h => ?tooLong, fun a q p h => ?encode,
    fun b => ?decodeResponse⟩
  case decode =>
    intro r
    exact ⟨sizeOk_iff s.cfg b, rfl, rfl, headerOf_of_le,
      fun h => ⟨headerOf_of_lt h, decodeDatagram_payload_of_badSize (sizeOk_of_lt h)⟩,
      headerLength_toNat r.header, rfl, rfl, decodeDatagram_payload, decodeDatagram_payload_of_badSize⟩
  case csum => rw [exec_eq_next, execState, respondCodec_eq, csumResponse]
  case verify =>
    obtain ⟨h1, h0⟩ := verifyByte_iff (verify b)
    exact ⟨_, h1, h0, by rw [exec_eq_next, execState, respondCodec_eq, verifyResponse]⟩
  case tooLong => rw [exec_eq_next, execState, respondCodec_eq, encodeResponse_tooLong h]
  case encode => rw [exec_eq_next, execState, respondCodec_eq, encodeResponse_ok h]
  case decodeResponse =>
    exact ⟨_, decodeStatus_toNat _, by rw [exec_eq_next, execState, respondCodec_eq, decodeResponse]⟩

end Sys2Proof.Machine
end

section
/-! PROOFS. The framed packet and its decoding (41_codec.md R153, R158): each property is one of the fields on the wire,
and `Decode` reads the fields back. -/

namespace Sys2Proof.Machine

/-! ## The fields of an encoded packet (R153) -/

theorem encodePacket_magic (c : Config) (p : Bytes) (a q : Bool) : (encodePacket c p a q).take 8 = c.magic.bytes := rfl

theorem encodePacket_payload (c : Config) (p : Bytes) (a q : Bool) : (encodePacket c p a q).drop 12 = p := rfl

theorem encodePacket_header (c : Config) (p : Bytes) (a q : Bool) :
    u16be (encodePacket c p a q) 10 = packHeader (totalLengthOf p) a q := u16be_wireBytes _ a q

/-- Within MAX_PAYLOAD the length fits its 14-bit field, as it fits `S.outLen` (R151, 00_scope.md R6). -/
theorem totalLengthOf_toNat {c : Config} {p : Bytes} (h : p.length ≤ c.maxPayload.val) :
    (totalLengthOf p).toNat = 12 + p.length := by
  have hlen := outLen_encodePacket h false false
  rwa [encodePacket_length] at hlen

/-- Settles O20: the packet's fields in wire order; the header's length field is exact on the domain. -/
theorem encodedPacketProperties : Obligations.EncodedPacketProperties := by
  intro c p a q h
  refine ⟨encodePacket_length c p a q, encodePacket_magic c p a q, ?_, encodePacket_payload c p a q,
    verify_encodePacket c p a q⟩
  rw [encodePacket_header, packHeader_toNat, totalLengthOf_toNat h]

/-! ## Decoding it (R158) -/

theorem sizeOk_encodePacket {c : Config} {p : Bytes} (h : p.length ≤ c.maxPayload.val) (a q : Bool) :
    sizeOk c (encodePacket c p a q) = true := by
  rw [sizeOk_iff, encodePacket_length]
  exact ⟨Nat.le_add_right _ _, Nat.add_le_add_left h _⟩

/-- `Decode` finds the header that `Encode` packed. -/
theorem headerOf_encodePacket (c : Config) (p : Bytes) (a q : Bool) :
    headerOf (encodePacket c p a q) = packHeader (totalLengthOf p) a q := by
  have h12 : 12 ≤ (encodePacket c p a q).length := by rw [encodePacket_length]; exact Nat.le_add_right _ _
  rw [headerOf_of_le h12, encodePacket_header]

/-- Settles O21: size and checksum are good, and the header and the payload are those that were framed. -/
theorem datagramDecodeReversesEncode : Obligations.DatagramDecodeReversesEncode := by
  intro c p a q h r
  have hsize : r.sizeOk = true := sizeOk_encodePacket h a q
  have hcsum : r.csumOk = true := verify_encodePacket c p a q
  have hvalid : r.valid = true := Bool.and_eq_true_iff.mpr ⟨hsize, hcsum⟩
  have hheader : r.header = packHeader (totalLengthOf p) a q := headerOf_encodePacket c p a q
  have hlength : r.length = totalLengthOf p := (congrArg headerLength hheader).trans (headerLength_packHeader _ a q)
  have hack : r.ackFlag = a := (congrArg headerAck hheader).trans (headerAck_packHeader _ a q)
  have hseq : r.seqNum = q := (congrArg headerSeq hheader).trans (headerSeq_packHeader _ a q)
  have hpayload : r.payload = p :=
    (decodeDatagram_payload (sizeOk_encodePacket h a q)).trans (encodePacket_payload c p a q)
  exact ⟨hvalid, hsize, hcsum, by rw [hlength, totalLengthOf_toNat h], hack, hseq, hpayload⟩

end Sys2Proof.Machine
end

section
/-! PROOFS. The receiver's transition table (42_receiver.md R189): its rows come in threes, one three for each seqNum the
receiver waits for, so each branch is a row for both. -/

namespace Sys2Proof.Machine

/-! ## Control states (10_state.md R29) -/

/-- The control state outside FATAL in which the receiver waits for the seqNum `x`. -/
def waitFor (x : Bool) : RState := if x then .waitForOdd else .waitForEven

theorem control_of_not_fatal {r : Receiver} (h : r.fatal = false) : r.control = waitFor r.expSeq := by
  rw [Receiver.control, h]; rfl

theorem control_eq_waitFor {r : Receiver} {x : Bool} : r.control = waitFor x ↔ r.fatal = false ∧ r.expSeq = x := by
  cases hf : r.fatal
  · rw [control_of_not_fatal hf]
    generalize r.expSeq = y
    revert x y
    decide
  · rw [Receiver.control, hf]
    cases x <;> simp [waitFor]

theorem control_eq_fatal {r : Receiver} : r.control = .fatal ↔ r.fatal = true := by
  cases hf : r.fatal
  · rw [control_of_not_fatal hf]
    cases r.expSeq <;> decide
  · simp [Receiver.control, hf]

/-! ## The branches, an equation for each (R182 to R184) -/

theorem receiveDatagram_corrupt {d : Bytes} {s : State} (hv : (decodeDatagram s.cfg d).valid = false) :
    receiveDatagram d s = sendAck s.R.lastAck (receiveCorrupt s) := if_pos hv

theorem receiveDatagram_duplicate {d : Bytes} {s : State} (hv : (decodeDatagram s.cfg d).valid = true)
    (hs : (decodeDatagram s.cfg d).seqNum ≠ s.R.expSeq) :
    receiveDatagram d s = sendAck (decodeDatagram s.cfg d).seqNum (receiveDuplicate s) :=
  (if_neg (ne_false_of_eq_true hv)).trans (if_pos hs)

theorem receiveDatagram_accept {d : Bytes} {s : State} (hv : (decodeDatagram s.cfg d).valid = true)
    (hs : (decodeDatagram s.cfg d).seqNum = s.R.expSeq) (hd : s.ports.rDlvReady = true) :
    receiveDatagram d s = completeAccept (decodeDatagram s.cfg d).payload s :=
  (if_neg (ne_false_of_eq_true hv)).trans ((if_neg (not_not_intro hs)).trans (if_pos hd))

theorem receiverDatagram_of_ready {d : Bytes} {s : State} (hr : rRxReady s = true) :
    receiverDatagram d s = receiveDatagram d s := if_pos hr

theorem receiverDatagram_of_fatal {d : Bytes} {s : State} (hf : s.R.fatal = true) : receiverDatagram d s = s :=
  if_neg fun hr => ne_false_of_eq_true hf (rRxReady_eq_true.mp hr).1

/-! ## What an ack adds to the observation, and the answer's effect on the receiver (R185, R188) -/

theorem sendAck_ackDatagrams (x : Bool) (s : State) :
    ackDatagrams (sendAck x s).log = ackDatagrams s.log ++ [encodePacket s.cfg [] true x] := by
  cases h : s.failR
  · simp [sendAck_ok h, ackDatagrams]
  · simp [sendAck_err h, ackDatagrams]

theorem sendAck_deliveries (x : Bool) (s : State) : deliveries (sendAck x s).log = deliveries s.log := by
  cases h : s.failR
  · simp [sendAck_ok h, deliveries]
  · simp [sendAck_err h, deliveries]

/-- What a row of the table says of the step from `s` to `t`. -/
def RowOutcome (s t : State) (payload : List Bytes) (ack exp last : Bool) (to_ : RState) (cause : RCause) : Prop :=
  deliveries t.log = deliveries s.log ++ payload ∧
  ackDatagrams t.log = ackDatagrams s.log ++ [encodePacket s.cfg [] true ack] ∧
  t.R.expSeq = exp ∧ t.R.lastAck = last ∧
  (s.failR = false → t.R.control = to_ ∧ t.R.last = cause) ∧
  (s.failR = true → t.R.control = .fatal ∧ t.R.last = .fatal)

/-- The ack after a branch's updates `u`, which keep the receiver out of FATAL and transmit nothing, makes the branch a
row. -/
theorem rowOutcome_sendAck {s u : State} {payload : List Bytes} (ack : Bool) (hc : u.cfg = s.cfg)
    (hfail : u.failR = s.failR) (hdlv : deliveries u.log = deliveries s.log ++ payload)
    (hack : ackDatagrams u.log = ackDatagrams s.log) (hf : u.R.fatal = false) :
    RowOutcome s (sendAck ack u) payload ack u.R.expSeq u.R.lastAck (waitFor u.R.expSeq) u.R.last := by
  obtain ⟨-, -, hexp, hlast⟩ := sendAck_frame ack u
  refine ⟨by rw [sendAck_deliveries, hdlv], by rw [sendAck_ackDatagrams, hack, hc], hexp, hlast, fun h => ?_, fun h => ?_⟩
  · rw [sendAck_ok (hfail.trans h)]
    exact ⟨control_of_not_fatal hf, rfl⟩
  · rw [sendAck_err (hfail.trans h)]
    exact ⟨control_eq_fatal.mpr rfl, rfl⟩

/-! ## The rows, for a receiver that waits for the seqNum `x` -/

section Rows

variable {d : Bytes} {s : State} {x : Bool} (hb : s.rBusy = none) (hx : s.R.control = waitFor x)
include hb hx

/-- Rows of branch 3: the payload is delivered, and the receiver waits for the other seqNum (R184). -/
theorem acceptRow (hd : s.ports.rDlvReady = true) (hv : (decodeDatagram s.cfg d).valid = true)
    (hs : (decodeDatagram s.cfg d).seqNum = x) :
    RowOutcome s (receiverDatagram d s) [(decodeDatagram s.cfg d).payload] x (!x) x (waitFor (!x)) .accepted := by
  obtain ⟨hf, rfl⟩ := control_eq_waitFor.mp hx
  rw [receiverDatagram_of_ready (rRxReady_eq_true.mpr ⟨hf, hb⟩), receiveDatagram_accept hv hs hd]
  exact rowOutcome_sendAck s.R.expSeq (u := receiveAccept s.R.expSeq _ s) rfl rfl
    (by simp [receiveAccept, deliveries]) (by simp [receiveAccept, ackDatagrams]) hf

variable (hI : s.R.Inv)
include hI

/-- Rows of branch 1: the ack repeats `R.lastAck`, which the invariant says is `not x` (R182). -/
theorem corruptRow (hv : (decodeDatagram s.cfg d).valid = false) :
    RowOutcome s (receiverDatagram d s) [] (!x) x (!x) (waitFor x) .corrupt := by
  obtain ⟨hf, rfl⟩ := control_eq_waitFor.mp hx
  rw [receiverDatagram_of_ready (rRxReady_eq_true.mpr ⟨hf, hb⟩), receiveDatagram_corrupt hv, ← hI.ackComplement]
  exact rowOutcome_sendAck s.R.lastAck (u := receiveCorrupt s) rfl rfl (List.append_nil _).symm rfl hf

/-- Rows of branch 2: the ack carries the datagram's own seqNum, which is the other one (R183). -/
theorem duplicateRow (hv : (decodeDatagram s.cfg d).valid = true) (hs : (decodeDatagram s.cfg d).seqNum = !x) :
    RowOutcome s (receiverDatagram d s) [] (!x) x (!x) (waitFor x) .duplicate := by
  obtain ⟨hf, rfl⟩ := control_eq_waitFor.mp hx
  have hne : (decodeDatagram s.cfg d).seqNum ≠ s.R.expSeq := hs ▸ Bool.not_ne_self _
  rw [receiverDatagram_of_ready (rRxReady_eq_true.mpr ⟨hf, hb⟩), receiveDatagram_duplicate hv hne, hs,
    ← hI.ackComplement]
  exact rowOutcome_sendAck s.R.lastAck (u := receiveDuplicate s) rfl rfl (List.append_nil _).symm rfl hf

end Rows

/-- Settles O38: each row is its branch at `x = 0` or `x = 1`, and in FATAL the datagram is held. -/
theorem receiverTransitionTable : Obligations.ReceiverTransitionTable := by
  intro d s t hI hb hd h
  obtain rfl := exec_next_iff.mp h
  exact ⟨fun hx hv _ => corruptRow (x := false) hb hx hI hv,
    fun hx hv hs => acceptRow (x := false) hb hx hd hv (hs rfl),
    fun hx hv hs => duplicateRow (x := false) hb hx hI hv (hs rfl),
    fun hx hv _ => corruptRow (x := true) hb hx hI hv,
    fun hx hv hs => acceptRow (x := true) hb hx hd hv (hs rfl),
    fun hx hv hs => duplicateRow (x := true) hb hx hI hv (hs rfl),
    fun hx => receiverDatagram_of_fatal (control_eq_fatal.mp hx)⟩

/-- Settles O41: the rows of branches 1 and 2 ack the same seqNum and deliver nothing. -/
theorem reackBranchesAgree : Obligations.ReackBranchesAgree := by
  intro d s t hI hf hb h hbranch
  obtain rfl := exec_next_iff.mp h
  have hx := control_of_not_fatal hf
  have hrow : ∃ cause, RowOutcome s (receiverDatagram d s) [] (!s.R.expSeq) s.R.expSeq (!s.R.expSeq)
      (waitFor s.R.expSeq) cause := by
    cases hv : (decodeDatagram s.cfg d).valid with
    | false => exact ⟨_, corruptRow hb hx hI hv⟩
    | true =>
      have hs := hbranch.resolve_left (ne_false_of_eq_true hv)
      exact ⟨_, duplicateRow hb hx hI hv (Bool.eq_not.mpr hs)⟩
  obtain ⟨_, hdlv, hack, -⟩ := hrow
  exact ⟨hack, hdlv.trans (List.append_nil _)⟩

end Sys2Proof.Machine
end

section
/-! PROOFS. The sender's tick (43_sender.md R218, R219): an equation for each of its branches, and the bound on the
timer count. -/

namespace Sys2Proof.Machine

/-- The saturating count adds 1 and stops at 0xFFFF (00_scope.md R11). -/
theorem satInc_eq_ofNat (v : Word16) : satInc v = BitVec.ofNat 16 (min (v.toNat + 1) 0xFFFF) := by
  unfold satInc
  split
  next h => subst h; rfl
  next h =>
    have hlt : v.toNat < 0xFFFF := by bv_omega
    rw [Nat.min_eq_left hlt]
    bv_omega

/-! ## The branches of a tick -/

theorem senderTick_ignored {s : State} (h : ¬ (s.S.state = .waitAck ∧ s.S.timerArmed = true)) : senderTick s = s :=
  if_neg h

theorem senderTick_counted {s : State} (hw : s.S.state = .waitAck) (ha : s.S.timerArmed = true)
    (hne : s.S.timerCnt + 1#16 ≠ s.cfg.timeoutTicks) :
    senderTick s = { s with S := { s.S with timerCnt := s.S.timerCnt + 1#16 } } :=
  (if_pos ⟨hw, ha⟩).trans (if_neg hne)

/-- At the timeout the count is not seen again, since `Retransmit` clears it. -/
theorem senderTick_timeout {s : State} (hw : s.S.state = .waitAck) (ha : s.S.timerArmed = true)
    (ht : s.S.timerCnt + 1#16 = s.cfg.timeoutTicks) : senderTick s = retransmit s :=
  (if_pos ⟨hw, ha⟩).trans ((if_pos ht).trans (retransmit_timerCnt _ s))

/-! ## The bound on the count -/

theorem retransmit_clears_timerCnt (s : State) : (retransmit s).S.timerCnt = 0#16 := by
  cases h : s.failS
  · rw [retransmit_ok h]
  · rw [retransmit_err h]

/-- The count is below the timeout in WAIT_ACK and 0 elsewhere, where the timer is disarmed (10_state.md R24, R27). -/
theorem Sender.Inv.timerCnt_le {c : Config} {x : Sender} (h : x.Inv c) : x.timerCnt ≤ c.timeoutTicks := by
  have atRest (hd : x.timerArmed = false) : x.timerCnt ≤ c.timeoutTicks := by
    rw [h.disarmedZero hd]
    exact BitVec.le_def.mpr (Nat.zero_le _)
  cases hx : x.state with
  | ready => exact atRest (h.readyDisarmed hx)
  | waitAck => exact BitVec.le_of_lt (h.waitCount hx)
  | fatal => exact atRest (h.fatalDisarmed hx)

/-- A tick keeps the bound: it counts only below the timeout (R218). -/
theorem senderTick_timerCnt_le {s : State} (h : s.S.Inv s.cfg) :
    (senderTick s).S.timerCnt ≤ s.cfg.timeoutTicks := by
  rcases senderTick_cases s with ⟨_, e⟩ | ⟨hw, _, _, e⟩ | ⟨_, _, _, e⟩ <;> rw [e]
  · exact h.timerCnt_le
  · have hlt := h.waitCount hw
    show s.S.timerCnt + 1#16 ≤ s.cfg.timeoutTicks
    bv_omega
  · rw [retransmit_clears_timerCnt]
    exact BitVec.le_def.mpr (Nat.zero_le _)

/-- Settles O30: each branch of the tick, and at the timeout each answer of the transport. -/
theorem tickTransaction : Obligations.TickTransaction := by
  intro s
  have htick : exec .sTick s = .next (senderTick s) := exec_eq_next .sTick s
  refine ⟨rfl, fun hI t h => ?_, fun h => ?_, fun hw ha hne => ?_, fun hw ha ht hf => ?_, fun hw ha ht hf => ?_⟩
  · obtain rfl := exec_next_iff.mp h
    exact senderTick_timerCnt_le hI
  · rw [htick, senderTick_ignored fun ⟨hw, ha⟩ => h.elim (absurd hw) (ne_false_of_eq_true ha)]
  · rw [htick, senderTick_counted hw ha hne]
  · rw [htick, senderTick_timeout hw ha ht, retransmit_ok hf, satInc_eq_ofNat]
    simp [Expected.logged, hf]
  · rw [htick, senderTick_timeout hw ha ht, retransmit_err hf, satInc_eq_ofNat]
    simp [Expected.logged, Expected.senderFatal]

end Sys2Proof.Machine
end

section
/-! PROOFS. At most one packet in flight, alternation, and no false success (43_sender.md R222): what an instruction
other than reset is to the sender's protocol, and the statement for each of these outcomes. -/

namespace Sys2Proof.Machine

/-! ## The observation -/

theorem sentDatagrams_append (l es : List (Nat × Event)) :
    sentDatagrams (l ++ es) = sentDatagrams l ++ sentDatagrams es := List.filterMap_append

/-- What is emitted is among the events added. -/
theorem emits_iff_of_log {s t : State} {es : List (Nat × Event)} (h : t.log = s.log ++ es) (e : Event) :
    Expected.emits s t e ↔ e ∈ es.map (·.2) := by
  rw [Expected.emits, observation, h, List.drop_left]

/-- The events added transmit the datagrams `sent` on `s_tx`, and none of them is `s_done`. -/
def AddsUnconfirmed (s t : State) (sent : List Bytes) : Prop :=
  ∃ es : List (Nat × Event), t.log = s.log ++ es ∧ sentDatagrams es = sent ∧ .sDone ∉ es.map (·.2)

theorem AddsUnconfirmed.refl (s : State) : AddsUnconfirmed s s [] :=
  ⟨[], (List.append_nil _).symm, rfl, List.not_mem_nil⟩

theorem AddsUnconfirmed.trans {s u t : State} {a b : List Bytes} (h : AddsUnconfirmed s u a)
    (h' : AddsUnconfirmed u t b) : AddsUnconfirmed s t (a ++ b) := by
  obtain ⟨es, hlog, hsent, hdone⟩ := h
  obtain ⟨es', hlog', hsent', hdone'⟩ := h'
  refine ⟨es ++ es', by rw [hlog', hlog, List.append_assoc], by rw [sentDatagrams_append, hsent, hsent'], ?_⟩
  rw [List.map_append, List.mem_append]
  exact not_or.mpr ⟨hdone, hdone'⟩

theorem AddsUnconfirmed.sentDatagrams_eq {s t : State} {sent : List Bytes} (h : AddsUnconfirmed s t sent) :
    sentDatagrams t.log = sentDatagrams s.log ++ sent := by
  obtain ⟨es, hlog, hsent, -⟩ := h
  rw [hlog, sentDatagrams_append, hsent]

theorem AddsUnconfirmed.not_emits {s t : State} {sent : List Bytes} (h : AddsUnconfirmed s t sent) :
    ¬ Expected.emits s t .sDone := by
  obtain ⟨es, hlog, -, hdone⟩ := h
  rwa [emits_iff_of_log hlog]

/-! ## What the operations add -/

theorem sendAck_addsUnconfirmed (x : Bool) (s : State) : AddsUnconfirmed s (sendAck x s) [] := by
  cases h : s.failR
  · rw [sendAck_ok h]
    exact ⟨[_], rfl, rfl, by simp⟩
  · rw [sendAck_err h]
    exact ⟨[_, _], List.append_assoc .., rfl, by simp⟩

theorem completeAccept_addsUnconfirmed (p : Bytes) (s : State) : AddsUnconfirmed s (completeAccept p s) [] :=
  have hdlv : AddsUnconfirmed s (receiveAccept s.R.expSeq p s) [] := ⟨[(s.recNo, .rDlv p)], rfl, rfl, by simp⟩
  hdlv.trans (sendAck_addsUnconfirmed _ _)

/-- No datagram makes the receiver transmit for the sender or confirm to it. -/
theorem receiverDatagram_addsUnconfirmed (d : Bytes) (s : State) : AddsUnconfirmed s (receiverDatagram d s) [] := by
  rcases receiverDatagram_cases d s with ⟨_, e⟩ | ⟨_, e⟩ <;> rw [e]
  · exact .refl s
  · rcases receiveDatagram_cases d s with ⟨_, e⟩ | ⟨_, _, e⟩ | ⟨_, _, _, e⟩ | ⟨_, e⟩ <;> rw [e]
    · exact sendAck_addsUnconfirmed _ (receiveCorrupt s)
    · exact sendAck_addsUnconfirmed _ (receiveDuplicate s)
    · exact completeAccept_addsUnconfirmed _ s
    · exact .refl s

/-- `Retransmit` transmits the kept packet, which stays, whatever the transport answers (R219). -/
theorem retransmit_addsUnconfirmed (s : State) :
    AddsUnconfirmed s (retransmit s) [s.S.outBuf] ∧ (retransmit s).S.outBuf = s.S.outBuf := by
  cases h : s.failS
  · rw [retransmit_ok h]
    exact ⟨⟨[_], rfl, rfl, by simp⟩, rfl⟩
  · rw [retransmit_err h]
    exact ⟨⟨[_, _], List.append_assoc .., rfl, by simp⟩, rfl⟩

/-! ## The outcomes -/

/-- What the instruction `i`, which takes `s` to `t`, is to the sender's protocol. -/
inductive ProtocolOutcome (i : Instr) (s t : State) : Prop where
  /-- Nothing is transmitted or confirmed; the sequence bit and the kept packet stay. -/
  | quiet (adds : AddsUnconfirmed s t []) (curSeq : t.S.curSeq = s.S.curSeq) (outBuf : t.S.outBuf = s.S.outBuf)
  /-- A message opens a round: its packet is kept and transmitted (R210). -/
  | opens (m : Bytes) (instr : i = .sSend m) (ready : s.S.state = .ready) (adds : AddsUnconfirmed s t [t.S.outBuf])
    (curSeq : t.S.curSeq = s.S.curSeq)
  /-- The kept packet is transmitted again (R219). -/
  | repeats (waits : s.S.state = .waitAck) (adds : AddsUnconfirmed s t [s.S.outBuf])
    (curSeq : t.S.curSeq = s.S.curSeq) (outBuf : t.S.outBuf = s.S.outBuf)
  /-- A response confirms the kept packet and closes the round (R214). -/
  | confirms (d : Bytes) (given : Expected.toSender i = some d) (waits : s.S.state = .waitAck)
    (good : Expected.good s.cfg d) (seq : (u16be d 10).getLsbD 0 = s.S.curSeq) (result : t = Expected.confirmed s)

theorem ProtocolOutcome.refl (i : Instr) (s : State) : ProtocolOutcome i s s := .quiet (.refl s) rfl rfl

/-- A datagram at the receiver leaves the sender alone. -/
theorem receiverDatagram_outcome (i : Instr) (d : Bytes) (s : State) : ProtocolOutcome i s (receiverDatagram d s) :=
  have hS := (receiverDatagram_frame d s).2
  .quiet (receiverDatagram_addsUnconfirmed d s) (by rw [hS]) (by rw [hS])

/-- An event that is neither a transmission on `s_tx` nor `s_done` leaves the sender alone. -/
theorem emit_outcome (i : Instr) (s : State) {e : Event} (hsent : sentDatagrams [(s.recNo, e)] = [])
    (hdone : e ≠ .sDone) : ProtocolOutcome i s (emit e s) :=
  .quiet ⟨[(s.recNo, e)], rfl, hsent, by simpa using hdone.symm⟩ rfl rfl

/-- A datagram at the sender is discarded, confirms, or rearms the timer only. -/
theorem senderDatagram_outcome {i : Instr} {d : Bytes} (hd : Expected.toSender i = some d) (s : State) :
    ProtocolOutcome i s (senderDatagram d s) := by
  unfold senderDatagram
  split
  next hw =>
    rcases handleResponse_cases d s with ⟨hr, hs, e⟩ | ⟨_, e⟩ <;> rw [e]
    · have hgood := good_of_responseGood hr
      exact .confirms d hd hw hgood (by rw [← decodeDatagram_seqNum hgood.1, hs]) rfl
    · exact .quiet (.refl s) rfl rfl
  next => exact .refl i s

/-- A message in READY is refused, or opens a round, whatever the transport answers. -/
theorem sendMessage_outcome (m : Bytes) {s : State} (hr : s.S.state = .ready) :
    ProtocolOutcome (.sSend m) s (sendMessage m s) := by
  rcases Nat.lt_or_ge s.cfg.maxPayload.val m.length with hl | hl
  · rw [sendMessage_tooLong hl]
    exact .quiet ⟨[_], rfl, rfl, by simp⟩ rfl rfl
  · refine .opens m rfl hr ?_ (sendMessage_frame m s).2.2
    cases hf : s.failS
    · rw [sendMessage_ok hl hf]
      exact ⟨[_], rfl, rfl, by simp⟩
    · rw [sendMessage_err hl hf]
      exact ⟨[_, _], List.append_assoc .., rfl, by simp⟩

/-- A tick is ignored, counts, or repeats the kept packet. -/
theorem senderTick_outcome (i : Instr) (s : State) : ProtocolOutcome i s (senderTick s) := by
  rcases senderTick_cases s with ⟨_, e⟩ | ⟨_, _, _, e⟩ | ⟨hw, ha, ht, _⟩
  · rw [e]
    exact .refl i s
  · rw [e]
    exact .quiet (.refl s) rfl rfl
  · rw [senderTick_timeout hw ha ht]
    obtain ⟨hadds, hbuf⟩ := retransmit_addsUnconfirmed s
    exact .repeats hw hadds (retransmit_frame s).2.2 hbuf

/-- Every instruction but reset has one of the outcomes. -/
theorem execState_outcome {i : Instr} (hi : i ≠ .rst) (s : State) : ProtocolOutcome i s (execState i s) := by
  cases i with
  | dataSeq0 p => exact receiverDatagram_outcome _ _ s
  | dataSeq1 p => exact receiverDatagram_outcome _ _ s
  | rDgram d => exact receiverDatagram_outcome _ d s
  | ackSeq0 p => exact senderDatagram_outcome rfl s
  | ackSeq1 p => exact senderDatagram_outcome rfl s
  | sResp d => exact senderDatagram_outcome rfl s
  | sSend m =>
    by_cases hr : s.S.state = .ready
    · rw [execState, if_pos hr]
      exact sendMessage_outcome m hr
    · rw [execState, if_neg hr]
      exact .refl _ s
  | sTick => exact senderTick_outcome _ s
  | cCsum b => exact emit_outcome _ s rfl nofun
  | cVerify b => exact emit_outcome _ s rfl nofun
  | cEncode a q p => exact emit_outcome _ s rfl nofun
  | cDecode b => exact emit_outcome _ s rfl nofun
  | hRead a => exact emit_outcome _ s rfl nofun
  | sTxFail => exact .quiet (.refl s) rfl rfl
  | rTxFail => exact .quiet (.refl s) rfl rfl
  | rst => exact absurd rfl hi

/-! ## The statement -/

/-- Where nothing is confirmed and the sequence bit stays, it does not flip and `s_done` is not emitted. -/
theorem AddsUnconfirmed.flips_iff_emits {s t : State} {sent : List Bytes} (h : AddsUnconfirmed s t sent)
    (hq : t.S.curSeq = s.S.curSeq) : t.S.curSeq = (!s.S.curSeq) ↔ Expected.emits s t .sDone := by
  rw [hq]
  exact iff_of_false (Bool.self_ne_not _) h.not_emits

/-- Settles O34: the statement in each outcome. -/
theorem senderProtocolProperties : Obligations.SenderProtocolProperties := by
  intro i s t h hi
  have hout : ProtocolOutcome i s t := exec_next_iff.mp h ▸ execState_outcome hi s
  cases hout with
  | quiet adds curSeq outBuf =>
    have hsent := adds.sentDatagrams_eq.trans (List.append_nil _)
    exact ⟨fun _ => .inl hsent, fun _ => ⟨.inl hsent, outBuf⟩, adds.flips_iff_emits curSeq,
      fun he => absurd he adds.not_emits⟩
  | opens m instr ready adds curSeq =>
    exact ⟨fun _ => .inr ⟨⟨m, instr⟩, adds.sentDatagrams_eq⟩, fun hw => by simp [ready] at hw,
      adds.flips_iff_emits curSeq, fun he => absurd he adds.not_emits⟩
  | repeats waits adds curSeq outBuf =>
    exact ⟨fun hr => by simp [waits] at hr, fun _ => ⟨.inr adds.sentDatagrams_eq, outBuf⟩,
      adds.flips_iff_emits curSeq, fun he => absurd he adds.not_emits⟩
  | confirms d given waits good seq result =>
    subst result
    have hsent : sentDatagrams (Expected.confirmed s).log = sentDatagrams s.log :=
      (sentDatagrams_append _ _).trans (List.append_nil _)
    have hdone : Expected.emits s (Expected.confirmed s) .sDone :=
      (emits_iff_of_log (es := [(s.recNo, .sDone)]) rfl _).mpr (List.mem_singleton_self _)
    exact ⟨fun _ => .inl hsent, fun _ => ⟨.inl hsent, rfl⟩, iff_of_true rfl hdone,
      fun _ => ⟨rfl, d, given, waits, good, seq⟩⟩

end Sys2Proof.Machine
end

section
/-! PROOFS. The register port and the trace directives (44_host.md R250, R251, R253, R254): the fields of each register
that packs several, and what a failure directive leaves to the next `Transmit`. -/

namespace Sys2Proof.Machine

/-! ## Codes -/

theorem stateCode_mem (x : SState) : (x, x.code) ∈ Expected.stateCodes := by
  cases x <;> decide

theorem senderCode_mem (x : SCause) : (x, x.code) ∈ Expected.senderCodes := by
  cases x <;> decide

theorem receiverCode_mem (x : RCause) : (x, x.code) ∈ Expected.receiverCodes := by
  cases x <;> decide

/-! ## Registers: a field is the part of the word that is left above the fields below it -/

/-- `S_STATUS` (10_state.md R40). -/
theorem regSStatus_fields (s : State) :
    (regSStatus s).extractLsb' 0 2 = s.S.state.code ∧ (regSStatus s).getLsbD 2 = s.S.curSeq ∧
    (regSStatus s).getLsbD 3 = s.S.timerArmed ∧ (regSStatus s).extractLsb' 4 4 = s.S.last.code ∧
    (regSStatus s).extractLsb' 8 24 = 0#24 := by
  unfold regSStatus
  refine ⟨BitVec.extractLsb'_append_eq_right, ?seq, ?armed, ?cause, ?reserved⟩
  case seq | armed => simp only [BitVec.getLsbD_append]; simp
  case cause =>
    simp (disch := omega) only [BitVec.extractLsb'_append_eq_of_le]
    exact BitVec.extractLsb'_append_eq_right
  case reserved =>
    simp (disch := omega) only [BitVec.extractLsb'_append_eq_of_le]
    exact BitVec.extractLsb'_eq_self

/-- `S_RETX` (R41). -/
theorem regSRetx_fields (s : State) :
    (regSRetx s).extractLsb' 0 16 = s.S.retx ∧ (regSRetx s).extractLsb' 16 16 = 0#16 :=
  ⟨BitVec.extractLsb'_append_eq_right, BitVec.extractLsb'_append_eq_left⟩

/-- `S_TIMER` (R42). -/
theorem regSTimer_fields (s : State) :
    (regSTimer s).extractLsb' 0 16 = s.S.timerCnt ∧ (regSTimer s).extractLsb' 16 14 = s.S.outLen ∧
    (regSTimer s).extractLsb' 30 2 = 0#2 := by
  unfold regSTimer
  refine ⟨BitVec.extractLsb'_append_eq_right, ?length, ?reserved⟩
  case length => exact (BitVec.extractLsb'_append_eq_of_le le_rfl).trans BitVec.extractLsb'_append_eq_right
  case reserved =>
    simp (disch := omega) only [BitVec.extractLsb'_append_eq_of_le]
    exact BitVec.extractLsb'_eq_self

/-- `R_STATUS` (R43). -/
theorem regRStatus_fields (s : State) :
    (regRStatus s).getLsbD 0 = s.R.expSeq ∧ (regRStatus s).getLsbD 1 = s.R.lastAck ∧
    (regRStatus s).getLsbD 2 = s.R.fatal ∧ (regRStatus s).getLsbD 3 = false ∧
    (regRStatus s).extractLsb' 4 4 = s.R.last.code ∧ (regRStatus s).extractLsb' 8 24 = 0#24 := by
  unfold regRStatus
  refine ⟨?seq, ?ack, ?fatal, ?zero, ?cause, ?reserved⟩
  case seq | ack | fatal | zero => simp only [BitVec.getLsbD_append]; simp
  case cause =>
    simp (disch := omega) only [BitVec.extractLsb'_append_eq_of_le]
    exact BitVec.extractLsb'_append_eq_right
  case reserved =>
    simp (disch := omega) only [BitVec.extractLsb'_append_eq_of_le]
    exact BitVec.extractLsb'_eq_self

/-- `CFG` (R47). MAX_PAYLOAD is at most 16371, so its 14 bits hold it. -/
theorem regCfg_fields (s : State) :
    (regCfg s).extractLsb' 0 16 = s.cfg.timeoutTicks ∧
    ((regCfg s).extractLsb' 16 14).toNat = s.cfg.maxPayload.val ∧
    (regCfg s).getLsbD 30 = s.cfg.ackVerify ∧ (regCfg s).getLsbD 31 = false := by
  unfold regCfg
  refine ⟨BitVec.extractLsb'_append_eq_right, ?limit, ?verify, ?zero⟩
  case limit =>
    have hlt := s.cfg.maxPayload.isLt
    rw [BitVec.extractLsb'_append_eq_of_le le_rfl, BitVec.extractLsb'_append_eq_right, BitVec.toNat_ofNat,
      Nat.mod_eq_of_lt (by omega)]
  case verify | zero => simp only [BitVec.getLsbD_append]; simp

/-- The bytes of a word that four bytes spell, as `MAGIC_HI` and `MAGIC_LO` do (R48, R49). -/
theorem extractLsb'_fourBytes {b0 b1 b2 b3 : Byte} {v : Word32} (h : v = b0 ++ b1 ++ b2 ++ b3) :
    v.extractLsb' 24 8 = b0 ∧ v.extractLsb' 16 8 = b1 ∧ v.extractLsb' 8 8 = b2 ∧ v.extractLsb' 0 8 = b3 := by
  subst h
  refine ⟨?_, ?_, ?_, BitVec.extractLsb'_append_eq_right⟩
  · simp (disch := omega) only [BitVec.extractLsb'_append_eq_of_le]
    exact BitVec.extractLsb'_eq_self
  · simp (disch := omega) only [BitVec.extractLsb'_append_eq_of_le]
    exact BitVec.extractLsb'_append_eq_right
  · exact (BitVec.extractLsb'_append_eq_of_le le_rfl).trans BitVec.extractLsb'_append_eq_right

/-- The addresses without a register (R251). -/
theorem readReg_eq_zero (s : State) {a : BitVec 4} (h : 0xB ≤ a.toNat) : readReg s a = 0#32 := by
  unfold readReg
  split
  case h_12 => rfl
  all_goals omega

/-- The address byte of `H_READ` (30_encoding.md R109, T3). -/
theorem addressByte_toNat (a : BitVec 4) : (0#4 ++ a : BitVec (4 + 4)).toNat = a.toNat := by
  rw [BitVec.toNat_append, BitVec.toNat_zero, Nat.zero_shiftLeft, Nat.zero_or]

/-- Settles O25, register by register: at a fixed address `readReg` is that register. -/
theorem registerReadsReturnFields : Obligations.RegisterReadsReturnFields := by
  intro s a
  refine ⟨readReg s a, 0#4 ++ a, addressByte_toNat a, rfl, exec_eq_next (.hRead a) s, ?id, ?sStatus, ?sRetx,
    ?sTimer, ?rStatus, ?accept, ?corrupt, ?dup, ?cfg, ?magicHi, ?magicLo, readReg_eq_zero s⟩
  case id | accept | corrupt | dup => rintro rfl; rfl
  case sStatus =>
    rintro rfl
    obtain ⟨hstate, hseq, harmed, hlast, hzero⟩ := regSStatus_fields s
    exact ⟨hstate ▸ stateCode_mem _, hseq, harmed, hlast ▸ senderCode_mem _, hzero⟩
  case sRetx => rintro rfl; exact regSRetx_fields s
  case sTimer => rintro rfl; exact regSTimer_fields s
  case rStatus =>
    rintro rfl
    obtain ⟨hseq, hack, hfatal, hbit, hlast, hzero⟩ := regRStatus_fields s
    exact ⟨hseq, hack, hfatal, hbit, hlast ▸ receiverCode_mem _, hzero⟩
  case cfg => rintro rfl; exact regCfg_fields s
  case magicHi | magicLo => rintro rfl; exact extractLsb'_fourBytes rfl

/-! ## The failure directives -/

/-- Settles O26: a directive writes `true` to its flag, which is the answer `err` of the next `Transmit`. -/
theorem transportFailureDirectives : Obligations.TransportFailureDirectives := by
  intro s
  refine ⟨rfl, rfl, exec_eq_next .sTxFail s, exec_eq_next .rTxFail s, fun t h => ?sender, fun t h => ?receiver⟩
  case sender =>
    obtain rfl := exec_next_iff.mp h
    exact ⟨exec_eq_next .sTxFail _, fun d => ⟨transmit_sender_answer d _, transmit_sender_failS d _,
      transmit_sender_failR d _⟩⟩
  case receiver =>
    obtain rfl := exec_next_iff.mp h
    exact ⟨exec_eq_next .rTxFail _, fun d => ⟨transmit_receiver_answer d _, transmit_receiver_failR d _,
      transmit_receiver_failS d _⟩⟩

end Sys2Proof.Machine
end

section
/-! PROOFS. What the instructions do to one engine's fatal mark (60_exceptions.md R275 to R277): they spare the engine,
keep the mark, or have a transmission fail, which is `raise Fatal` after what the answer `ok` would have done. -/

namespace Sys2Proof.Machine

/-! ## An engine, its fatal mark and its transport's answer -/

/-- The engine `a` is in FATAL. -/
def inFatal : Agent → State → Prop
  | .sender, s => s.S.state = .fatal
  | .receiver, s => s.R.fatal = true

/-- The next `Transmit` of the engine `a` answers `err`. -/
def errPending : Agent → State → Prop
  | .sender, s => s.failS = true
  | .receiver, s => s.failR = true

/-- `s` with the answer `ok` for the next `Transmit` of the engine `a`. -/
def answerOk : Agent → State → State
  | .sender, s => { s with failS := false }
  | .receiver, s => { s with failR := false }

/-- The engine `a` is the same in both states. -/
def SameEngine : Agent → State → State → Prop
  | .sender, s, t => t.S = s.S
  | .receiver, s, t => t.R = s.R

/-- The engine whose output an event is; the codec and register ports belong to neither. -/
def eventAgent : Event → Option Agent
  | .sTx _ => some .sender
  | .sDone => some .sender
  | .sMsgErr => some .sender
  | .rTx _ => some .receiver
  | .rDlv _ => some .receiver
  | .cRsp _ => none
  | .hRdata _ => none
  | .fatal a => some a

/-- The observation ends with a failed transmission of the engine `a` and its fatal event; the sender's transactions
emit nothing before it. -/
def LogsFailedTx : Agent → State → State → Prop
  | .sender, s, t => ∃ d : Bytes, t.log = Expected.logged s [.sTx d, .fatal .sender]
  | .receiver, s, t => ∃ (es : List Event) (d : Bytes), t.log = Expected.logged s (es ++ [.rTx d, .fatal .receiver])

theorem inFatal_raiseFatal (a : Agent) (s : State) : inFatal a (raiseFatal a s) := by
  cases a <;> rfl

theorem inFatal_of_sameEngine {a : Agent} {s t : State} (h : SameEngine a s t) : inFatal a t ↔ inFatal a s := by
  cases a
  case sender => exact Eq.congr_left (congrArg Sender.state h)
  case receiver => exact Eq.congr_left (congrArg Receiver.fatal h)

theorem not_inFatal_resetEngines (a : Agent) (s : State) : ¬ inFatal a (resetEngines s) := by
  cases a <;> nofun

theorem outsideFatal_iff (s : State) : outsideFatal s = true ↔ ∀ a, ¬ inFatal a s := by
  simp only [outsideFatal, sFatal, rFatal, Bool.and_eq_true, Bool.not_eq_true', beq_eq_false_iff_ne]
  refine ⟨fun ⟨hS, hR⟩ a => ?_, fun h => ⟨h .sender, eq_false_of_ne_true (h .receiver)⟩⟩
  cases a
  case sender => exact hS
  case receiver => exact ne_true_of_eq_false hR

theorem emits_iff_of_logged {s t : State} {es : List Event} (h : t.log = Expected.logged s es) (e : Event) :
    Expected.emits s t e ↔ e ∈ es := by
  simp [emits_iff_of_log h]

/-- A failed transmission is followed by the fatal event. -/
theorem LogsFailedTx.emits {a : Agent} {s t : State} (h : LogsFailedTx a s t) : Expected.emits s t (.fatal a) := by
  cases a
  case sender =>
    obtain ⟨d, hlog⟩ := h
    simp [emits_iff_of_logged hlog]
  case receiver =>
    obtain ⟨es, d, hlog⟩ := h
    simp [emits_iff_of_logged hlog]

/-! ## Sparing an engine -/

/-- The step from `s` to `t` is none of the engine `a`'s: it stays, its failure stays pending, and it outputs
nothing. -/
structure Spares (a : Agent) (s t : State) : Prop where
  engine : SameEngine a s t
  pending : errPending a s → errPending a t
  events : ∃ es : List (Nat × Event), t.log = s.log ++ es ∧ ∀ e ∈ es, eventAgent e.2 ≠ some a

theorem SameEngine.refl (a : Agent) (s : State) : SameEngine a s s := by cases a <;> rfl

theorem Spares.of_logged {a : Agent} {s t : State} {es : List Event} (hlog : t.log = Expected.logged s es)
    (hes : ∀ e ∈ es, eventAgent e ≠ some a) (hengine : SameEngine a s t) (hpending : errPending a s → errPending a t) :
    Spares a s t :=
  ⟨hengine, hpending, _, hlog, by simpa using hes⟩

theorem Spares.of_log_eq {a : Agent} {s t : State} (hlog : t.log = s.log) (hengine : SameEngine a s t)
    (hpending : errPending a s → errPending a t) : Spares a s t :=
  .of_logged (es := []) (hlog.trans (List.append_nil _).symm) nofun hengine hpending

theorem Spares.refl (a : Agent) (s : State) : Spares a s s :=
  .of_log_eq rfl (.refl a s) id

/-- An event of the codec or register port spares both engines. -/
theorem emit_spares {e : Event} (h : eventAgent e = none) (a : Agent) (s : State) : Spares a s (emit e s) :=
  .of_logged (es := [e]) rfl (by simp [h]) (by cases a <;> rfl) (by cases a <;> exact id)

theorem Spares.trans {a : Agent} {s u t : State} (h : Spares a s u) (h' : Spares a u t) : Spares a s t := by
  obtain ⟨hengine, hpending, es, hlog, hes⟩ := h
  obtain ⟨hengine', hpending', es', hlog', hes'⟩ := h'
  refine ⟨?_, hpending' ∘ hpending, es ++ es', by rw [hlog', hlog, List.append_assoc], ?_⟩
  · cases a <;> exact Eq.trans hengine' hengine
  · exact List.forall_mem_append.mpr ⟨hes, hes'⟩

/-- What is read off the events of a spared engine stays the same. -/
theorem Spares.filterMap_log {a : Agent} {s t : State} (h : Spares a s t) {β : Type} {f : Nat × Event → Option β}
    (hf : ∀ e, eventAgent e.2 ≠ some a → f e = none) : t.log.filterMap f = s.log.filterMap f := by
  obtain ⟨-, -, es, hlog, hes⟩ := h
  have hnil : es.filterMap f = [] := List.filterMap_eq_nil_iff.mpr fun e he => hf e (hes e he)
  rw [hlog, List.filterMap_append, hnil, List.append_nil]

theorem Spares.sentDatagrams_eq {s t : State} (h : Spares .sender s t) : sentDatagrams t.log = sentDatagrams s.log :=
  h.filterMap_log fun ⟨_, e⟩ he => by
    cases e with
    | sTx => exact absurd rfl he
    | _ => rfl

theorem Spares.ackDatagrams_eq {s t : State} (h : Spares .receiver s t) : ackDatagrams t.log = ackDatagrams s.log :=
  h.filterMap_log fun ⟨_, e⟩ he => by
    cases e with
    | rTx => exact absurd rfl he
    | _ => rfl

theorem Spares.deliveries_eq {s t : State} (h : Spares .receiver s t) : deliveries t.log = deliveries s.log :=
  h.filterMap_log fun ⟨_, e⟩ he => by
    cases e with
    | rDlv => exact absurd rfl he
    | _ => rfl

/-! ## Keeping the fatal mark, and entering FATAL -/

/-- The step from `s` to `t` keeps the engine `a` in or out of FATAL: no transmission of it fails. -/
structure KeepsFatal (a : Agent) (s t : State) : Prop where
  mark : inFatal a t ↔ inFatal a s
  pending : errPending a s → errPending a t
  quiet : ¬ Expected.emits s t (.fatal a)

theorem Spares.keepsFatal {a : Agent} {s t : State} (h : Spares a s t) : KeepsFatal a s t := by
  obtain ⟨hengine, hpending, es, hlog, hes⟩ := h
  refine ⟨inFatal_of_sameEngine hengine, hpending, fun hem => ?_⟩
  obtain ⟨e, he, hfatal⟩ := List.mem_map.mp ((emits_iff_of_log hlog _).mp hem)
  exact hes e he (congrArg eventAgent hfatal)

theorem KeepsFatal.of_logged {a : Agent} {s t : State} {es : List Event} (hlog : t.log = Expected.logged s es)
    (hes : .fatal a ∉ es) (hmark : inFatal a t ↔ inFatal a s) (hpending : errPending a s → errPending a t) :
    KeepsFatal a s t :=
  ⟨hmark, hpending, fun hem => hes ((emits_iff_of_logged hlog _).mp hem)⟩

/-- `f` brings the engine `a` from `s` into FATAL: its transmission fails, and the engine raises Fatal where the
answer `ok` would have left it (60_exceptions.md R275, R276). -/
structure EntersFatal (a : Agent) (f : State → State) (s : State) : Prop where
  outside : ¬ inFatal a s
  pending : errPending a s
  result : f s = raiseFatal a (f (answerOk a s))
  log : LogsFailedTx a s (f s)

theorem EntersFatal.inFatal {a : Agent} {f : State → State} {s : State} (h : EntersFatal a f s) : inFatal a (f s) :=
  h.result ▸ inFatal_raiseFatal a _

/-! ## The sender's transactions -/

theorem not_errPending_sender {s : State} (h : s.failS = false) : ¬ errPending .sender s := ne_true_of_eq_false h

theorem not_errPending_receiver {s : State} (h : s.failR = false) : ¬ errPending .receiver s := ne_true_of_eq_false h

theorem retransmit_err_eq {s : State} (h : s.failS = true) :
    retransmit s = raiseFatal .sender (retransmit (answerOk .sender s)) := by
  rw [retransmit_err h, retransmit_ok (s := answerOk .sender s) rfl]
  rfl

theorem sendMessage_err_eq {m : Bytes} {s : State} (hl : m.length ≤ s.cfg.maxPayload.val) (h : s.failS = true) :
    sendMessage m s = raiseFatal .sender (sendMessage m (answerOk .sender s)) := by
  rw [sendMessage_err hl h, sendMessage_ok (s := answerOk .sender s) hl rfl]
  rfl

/-- `Retransmit` enters FATAL exactly when its failure is pending. -/
theorem retransmit_keeps_or_enters_fatal {s : State} (hout : ¬ inFatal .sender s) :
    KeepsFatal .sender s (retransmit s) ∨ EntersFatal .sender retransmit s := by
  cases h : s.failS with
  | false =>
    rw [retransmit_ok h]
    exact .inl (.of_logged (es := [.sTx _]) rfl (by simp) .rfl fun hp => absurd hp (not_errPending_sender h))
  | true =>
    exact .inr ⟨hout, h, retransmit_err_eq h, s.S.outBuf, by rw [retransmit_err h]; exact List.append_assoc ..⟩

theorem senderTick_keeps_or_enters_fatal (s : State) :
    KeepsFatal .sender s (senderTick s) ∨ EntersFatal .sender senderTick s := by
  rcases senderTick_cases s with ⟨_, e⟩ | ⟨_, _, _, e⟩ | ⟨hw, ha, ht, _⟩
  · exact .inl (e.symm ▸ (Spares.refl _ s).keepsFatal)
  · rw [e]
    exact .inl (.of_logged (es := []) (List.append_nil _).symm nofun .rfl id)
  · have hs := senderTick_timeout hw ha ht
    have hok : senderTick (answerOk .sender s) = retransmit (answerOk .sender s) := senderTick_timeout hw ha ht
    rcases retransmit_keeps_or_enters_fatal (s := s) (by simp [inFatal, hw]) with hkeep | ⟨hout, herr, hres, hlog⟩
    · exact .inl (hs ▸ hkeep)
    · exact .inr ⟨hout, herr, by rw [hs, hok, hres], hs ▸ hlog⟩

/-- A message in READY that is framed enters FATAL exactly when the failure is pending. -/
theorem sendMessage_keeps_or_enters_fatal (m : Bytes) {s : State} (hr : s.S.state = .ready) :
    KeepsFatal .sender s (sendMessage m s) ∨ EntersFatal .sender (sendMessage m) s := by
  have hout : ¬ inFatal .sender s := by simp [inFatal, hr]
  rcases Nat.lt_or_ge s.cfg.maxPayload.val m.length with hl | hl
  · rw [sendMessage_tooLong hl]
    exact .inl (.of_logged (es := [.sMsgErr]) rfl (by simp) .rfl id)
  · cases h : s.failS with
    | false =>
      rw [sendMessage_ok hl h]
      exact .inl (.of_logged (es := [.sTx _]) rfl (by simp) (iff_of_false nofun hout)
        fun hp => absurd hp (not_errPending_sender h))
    | true =>
      exact .inr ⟨hout, h, sendMessage_err_eq hl h, _, by rw [sendMessage_err hl h]; exact List.append_assoc ..⟩

theorem senderDatagram_of_not_waiting {d : Bytes} {s : State} (h : s.S.state ≠ .waitAck) : senderDatagram d s = s :=
  if_neg h

/-- A datagram at the sender makes it transmit nothing. -/
theorem senderDatagram_keepsFatal (d : Bytes) (s : State) : KeepsFatal .sender s (senderDatagram d s) := by
  unfold senderDatagram
  split
  next hw =>
    rcases handleResponse_cases d s with ⟨_, _, e⟩ | ⟨_, e⟩ <;> rw [e]
    · exact .of_logged (es := [.sDone]) rfl (by simp) (iff_of_false nofun (by simp [inFatal, hw])) id
    · exact .of_logged (es := []) (List.append_nil _).symm nofun .rfl id
  next => exact (Spares.refl _ s).keepsFatal

/-! ## The receiver's transactions -/

theorem sendAck_err_eq {x : Bool} {s : State} (h : s.failR = true) :
    sendAck x s = raiseFatal .receiver (sendAck x (answerOk .receiver s)) := by
  rw [sendAck_err h, sendAck_ok (s := answerOk .receiver s) rfl]
  rfl

/-- A branch that updates the state to `u` and then sends its ack enters FATAL exactly when the failure is pending. -/
theorem sendAck_keeps_or_enters_fatal {f : State → State} {x : Bool} {s u : State} {es : List Event}
    (hf : f s = sendAck x u) (hok : f (answerOk .receiver s) = sendAck x (answerOk .receiver u)) (hout : s.R.fatal = false)
    (hfatal : u.R.fatal = s.R.fatal) (hfail : u.failR = s.failR) (hrec : u.recNo = s.recNo)
    (hlog : u.log = Expected.logged s es) (hes : .fatal .receiver ∉ es) :
    KeepsFatal .receiver s (f s) ∨ EntersFatal .receiver f s := by
  cases h : s.failR with
  | false =>
    rw [hf, sendAck_ok (hfail.trans h)]
    refine .inl (.of_logged (es := es ++ [.rTx (encodePacket u.cfg [] true x)]) (by simp [hlog, hrec, Expected.logged])
      (by simpa using hes) (Eq.congr_left hfatal) fun hp => absurd hp (not_errPending_receiver h))
  | true =>
    refine .inr ⟨ne_true_of_eq_false hout, h, by rw [hf, hok, sendAck_err_eq (hfail.trans h)], es,
      encodePacket u.cfg [] true x, ?_⟩
    rw [hf, sendAck_err (hfail.trans h)]
    simp [hlog, hrec, Expected.logged]

theorem receiveDatagram_keeps_or_enters_fatal (d : Bytes) {s : State} (hout : s.R.fatal = false) :
    KeepsFatal .receiver s (receiveDatagram d s) ∨ EntersFatal .receiver (receiveDatagram d) s := by
  rcases receiveDatagram_cases d s with ⟨hv, e⟩ | ⟨hv, hs, e⟩ | ⟨hv, hs, hd, e⟩ | ⟨_, e⟩
  · exact sendAck_keeps_or_enters_fatal (es := []) e (receiveDatagram_corrupt (s := answerOk .receiver s) hv)
      hout rfl rfl rfl (List.append_nil _).symm nofun
  · exact sendAck_keeps_or_enters_fatal (es := []) e (receiveDatagram_duplicate (s := answerOk .receiver s) hv hs)
      hout rfl rfl rfl (List.append_nil _).symm nofun
  · exact sendAck_keeps_or_enters_fatal (es := [.rDlv _]) e
      (receiveDatagram_accept (s := answerOk .receiver s) hv hs hd) hout rfl rfl rfl rfl (by simp)
  · rw [e]
    exact .inl (.of_logged (es := []) (List.append_nil _).symm nofun .rfl id)

theorem receiverDatagram_keeps_or_enters_fatal (d : Bytes) (s : State) :
    KeepsFatal .receiver s (receiverDatagram d s) ∨ EntersFatal .receiver (receiverDatagram d) s := by
  rcases receiverDatagram_cases d s with ⟨_, e⟩ | ⟨hr, e⟩
  · exact .inl (e.symm ▸ (Spares.refl _ s).keepsFatal)
  · have hok : receiverDatagram d (answerOk .receiver s) = receiveDatagram d (answerOk .receiver s) :=
      receiverDatagram_of_ready hr
    rcases receiveDatagram_keeps_or_enters_fatal d (rRxReady_eq_true.mp hr).1 with hkeep | ⟨hout, herr, hres, hlog⟩
    · exact .inl (e.symm ▸ hkeep)
    · exact .inr ⟨hout, herr, by rw [e, hok, hres], e.symm ▸ hlog⟩

/-! ## Each engine's transactions spare the other -/

theorem retransmit_spares (s : State) : Spares .receiver s (retransmit s) := by
  cases h : s.failS with
  | false => rw [retransmit_ok h]; exact .of_logged (es := [.sTx _]) rfl (by simp [eventAgent]) rfl id
  | true =>
    rw [retransmit_err h]
    exact .of_logged (es := [.sTx _, .fatal .sender]) (List.append_assoc ..) (by simp [eventAgent]) rfl id

theorem senderTick_spares (s : State) : Spares .receiver s (senderTick s) := by
  rcases senderTick_cases s with ⟨_, e⟩ | ⟨_, _, _, e⟩ | ⟨hw, ha, ht, _⟩
  · exact e.symm ▸ .refl _ s
  · rw [e]; exact .of_log_eq rfl rfl id
  · rw [senderTick_timeout hw ha ht]; exact retransmit_spares s

theorem sendMessage_spares (m : Bytes) (s : State) : Spares .receiver s (sendMessage m s) := by
  rcases Nat.lt_or_ge s.cfg.maxPayload.val m.length with hl | hl
  · rw [sendMessage_tooLong hl]; exact .of_logged (es := [.sMsgErr]) rfl (by simp [eventAgent]) rfl id
  · cases h : s.failS with
    | false => rw [sendMessage_ok hl h]; exact .of_logged (es := [.sTx _]) rfl (by simp [eventAgent]) rfl id
    | true =>
      rw [sendMessage_err hl h]
      exact .of_logged (es := [.sTx _, .fatal .sender]) (List.append_assoc ..) (by simp [eventAgent]) rfl id

theorem senderDatagram_spares (d : Bytes) (s : State) : Spares .receiver s (senderDatagram d s) := by
  unfold senderDatagram
  split
  · rcases handleResponse_cases d s with ⟨_, _, e⟩ | ⟨_, e⟩ <;> rw [e]
    · exact .of_logged (es := [.sDone]) rfl (by simp [eventAgent]) rfl id
    · exact .of_log_eq rfl rfl id
  · exact .refl _ s

theorem sendAck_spares (x : Bool) (s : State) : Spares .sender s (sendAck x s) := by
  cases h : s.failR with
  | false => rw [sendAck_ok h]; exact .of_logged (es := [.rTx _]) rfl (by simp [eventAgent]) rfl id
  | true =>
    rw [sendAck_err h]
    exact .of_logged (es := [.rTx _, .fatal .receiver]) (List.append_assoc ..) (by simp [eventAgent]) rfl id

theorem completeAccept_spares (p : Bytes) (s : State) : Spares .sender s (completeAccept p s) :=
  have haccept : Spares .sender s (receiveAccept s.R.expSeq p s) :=
    .of_logged (es := [.rDlv p]) rfl (by simp [eventAgent]) rfl id
  haccept.trans (sendAck_spares _ _)

theorem receiverDatagram_spares (d : Bytes) (s : State) : Spares .sender s (receiverDatagram d s) := by
  have hcorrupt : Spares .sender s (receiveCorrupt s) := .of_log_eq rfl rfl id
  have hduplicate : Spares .sender s (receiveDuplicate s) := .of_log_eq rfl rfl id
  rcases receiverDatagram_cases d s with ⟨_, e⟩ | ⟨_, e⟩ <;> rw [e]
  · exact .refl _ s
  · rcases receiveDatagram_cases d s with ⟨_, e⟩ | ⟨_, _, e⟩ | ⟨_, _, _, e⟩ | ⟨_, e⟩ <;> rw [e]
    · exact hcorrupt.trans (sendAck_spares _ _)
    · exact hduplicate.trans (sendAck_spares _ _)
    · exact completeAccept_spares _ s
    · exact .of_log_eq rfl rfl id

/-! ## Every instruction -/

/-- Every instruction but reset is a datagram at the receiver, a datagram at the sender, a message, a tick, or no
transaction of either engine. -/
theorem execState_transactionCases {i : Instr} (hi : i ≠ .rst) :
    (∃ d, execState i = receiverDatagram d) ∨ (∃ d, execState i = senderDatagram d) ∨ (∃ m, i = .sSend m) ∨
    i = .sTick ∨ ∀ a s, Spares a s (execState i s) := by
  cases i with
  | dataSeq0 p => exact .inl ⟨_, rfl⟩
  | dataSeq1 p => exact .inl ⟨_, rfl⟩
  | rDgram d => exact .inl ⟨d, rfl⟩
  | ackSeq0 p => exact .inr (.inl ⟨_, rfl⟩)
  | ackSeq1 p => exact .inr (.inl ⟨_, rfl⟩)
  | sResp d => exact .inr (.inl ⟨d, rfl⟩)
  | sSend m => exact .inr (.inr (.inl ⟨m, rfl⟩))
  | sTick => exact .inr (.inr (.inr (.inl rfl)))
  | cCsum _ | cVerify _ | cEncode _ _ _ | cDecode _ | hRead _ =>
    exact .inr (.inr (.inr (.inr fun a s => emit_spares rfl a s)))
  | sTxFail =>
    exact .inr (.inr (.inr (.inr fun a s => .of_log_eq rfl (by cases a <;> rfl) (by
      cases a
      case sender => exact fun _ => rfl
      case receiver => exact id))))
  | rTxFail =>
    exact .inr (.inr (.inr (.inr fun a s => .of_log_eq rfl (by cases a <;> rfl) (by
      cases a
      case sender => exact id
      case receiver => exact fun _ => rfl))))
  | rst => exact absurd rfl hi

theorem execState_sSend_of_ready {m : Bytes} {s : State} (h : s.S.state = .ready) :
    execState (.sSend m) s = sendMessage m s := if_pos h

theorem execState_sSend_of_not_ready {m : Bytes} {s : State} (h : s.S.state ≠ .ready) : execState (.sSend m) s = s :=
  if_neg h

/-- Every instruction but reset is a datagram at the receiver or spares the receiver. -/
theorem execState_receiverDatagram_or_spares {i : Instr} (hi : i ≠ .rst) :
    (∃ d, execState i = receiverDatagram d) ∨ ∀ s, Spares .receiver s (execState i s) := by
  obtain hd | ⟨d, e⟩ | ⟨m, rfl⟩ | rfl | hs := execState_transactionCases hi
  · exact .inl hd
  · exact .inr fun s => e ▸ senderDatagram_spares d s
  · refine .inr fun s => ?_
    by_cases hr : s.S.state = .ready
    · exact execState_sSend_of_ready hr ▸ sendMessage_spares m s
    · exact (execState_sSend_of_not_ready hr).symm ▸ .refl _ s
  · exact .inr senderTick_spares
  · exact .inr (hs .receiver)

/-- No instruction is a transaction of both engines. -/
theorem execState_spares_one {i : Instr} (hi : i ≠ .rst) (s : State) :
    Spares .sender s (execState i s) ∨ Spares .receiver s (execState i s) := by
  obtain ⟨d, e⟩ | hs := execState_receiverDatagram_or_spares hi
  · exact .inl (e ▸ receiverDatagram_spares d s)
  · exact .inr (hs s)

/-- Every instruction but reset spares an engine in FATAL (60_exceptions.md R277). -/
theorem execState_spares_of_inFatal {a : Agent} {i : Instr} {s : State} (hi : i ≠ .rst) (hf : inFatal a s) :
    Spares a s (execState i s) := by
  cases a with
  | receiver =>
    obtain ⟨d, e⟩ | hs := execState_receiverDatagram_or_spares hi
    · rw [e, receiverDatagram_of_fatal hf]; exact .refl _ s
    · exact hs s
  | sender =>
    have hstate : s.S.state = .fatal := hf
    obtain ⟨d, e⟩ | ⟨d, e⟩ | ⟨m, rfl⟩ | rfl | hs := execState_transactionCases hi
    · exact e ▸ receiverDatagram_spares d s
    · rw [e, senderDatagram_of_not_waiting (by simp [hstate])]; exact .refl _ s
    · rw [execState_sSend_of_not_ready (by simp [hstate])]; exact .refl _ s
    · rw [execState, senderTick_ignored (by simp [hstate])]; exact .refl _ s
    · exact hs .sender s

/-- Every instruction but reset keeps an engine's fatal mark, or has its transmission fail. -/
theorem execState_keeps_or_enters_fatal (a : Agent) {i : Instr} (hi : i ≠ .rst) (s : State) :
    KeepsFatal a s (execState i s) ∨ EntersFatal a (execState i) s := by
  cases a with
  | receiver =>
    obtain ⟨d, e⟩ | hs := execState_receiverDatagram_or_spares hi
    · exact e ▸ receiverDatagram_keeps_or_enters_fatal d s
    · exact .inl (hs s).keepsFatal
  | sender =>
    obtain ⟨d, e⟩ | ⟨d, e⟩ | ⟨m, rfl⟩ | rfl | hs := execState_transactionCases hi
    · exact .inl (e ▸ (receiverDatagram_spares d s).keepsFatal)
    · exact .inl (e ▸ senderDatagram_keepsFatal d s)
    · by_cases hr : s.S.state = .ready
      · have hsend := execState_sSend_of_ready (m := m) hr
        have hok : execState (.sSend m) (answerOk .sender s) = sendMessage m (answerOk .sender s) :=
          execState_sSend_of_ready hr
        rcases sendMessage_keeps_or_enters_fatal m hr with hkeep | ⟨hout, herr, hres, hlog⟩
        · exact .inl (hsend ▸ hkeep)
        · exact .inr ⟨hout, herr, by rw [hsend, hok, hres], hsend ▸ hlog⟩
      · exact .inl ((execState_sSend_of_not_ready hr).symm ▸ (Spares.refl _ s).keepsFatal)
    · exact senderTick_keeps_or_enters_fatal s
    · exact .inl (hs .sender s).keepsFatal

/-- An instruction that brings an engine into FATAL is not reset, and its transmission failed. -/
theorem execState_entersFatal {a : Agent} {i : Instr} {s : State} (hout : ¬ inFatal a s)
    (hin : inFatal a (execState i s)) : i ≠ .rst ∧ EntersFatal a (execState i) s := by
  have hi : i ≠ .rst := by
    rintro rfl
    exact not_inFatal_resetEngines a s hin
  exact ⟨hi, (execState_keeps_or_enters_fatal a hi s).resolve_left fun hkeep => hout (hkeep.mark.mp hin)⟩

/-- A failure that is consumed brings its engine into FATAL. -/
theorem inFatal_of_consumed_err {a : Agent} {i : Instr} {s : State} (hi : i ≠ .rst) (herr : errPending a s)
    (hdone : ¬ errPending a (execState i s)) : inFatal a (execState i s) :=
  ((execState_keeps_or_enters_fatal a hi s).resolve_left fun hkeep => hdone (hkeep.pending herr)).inFatal

/-- A fatal event is emitted exactly on entry to FATAL (60_exceptions.md R276, R278). -/
theorem execState_emits_fatal_iff (a : Agent) (i : Instr) (s : State) :
    Expected.emits s (execState i s) (.fatal a) ↔ ¬ inFatal a s ∧ inFatal a (execState i s) := by
  by_cases hi : i = .rst
  · subst hi
    have hquiet : ¬ Expected.emits s (execState .rst s) (.fatal a) := by
      simp [emits_iff_of_logged (s := s) (t := execState .rst s) (es := []) (List.append_nil _).symm]
    exact iff_of_false hquiet fun h => not_inFatal_resetEngines a s h.2
  · rcases execState_keeps_or_enters_fatal a hi s with hkeep | henter
    · exact iff_of_false hkeep.quiet fun h => h.1 (hkeep.mark.mp h.2)
    · exact iff_of_true henter.log.emits ⟨henter.outside, henter.inFatal⟩

end Sys2Proof.Machine
end

section
/-! PROOFS. The fatal entry and the stay in FATAL (60_exceptions.md R275 to R278), for an instruction and along
a run. -/

namespace Sys2Proof.Machine

/-! ## The entry -/

/-- Settles O43: an instruction that enters FATAL raises Fatal where the answer `ok` would have left it; of the sender's
transactions only a confirmation, which leaves it in READY, writes `S.curSeq`. -/
theorem fatalEntryEffect : Obligations.FatalEntryEffect := by
  intro i s t h
  have hconfirm := (onlyConfirmationFlipsCurSeq i s t h).2
  obtain rfl := exec_next_iff.mp h
  refine ⟨rfl, rfl, fun hout hin => ?sender, fun hout hin => ?receiver, fun hdone herr hi => ?senderErr,
    fun hdone herr hi => ?receiverErr⟩
  case sender =>
    obtain ⟨hi, -, herr, hres, hlog⟩ := execState_entersFatal (a := .sender) hout hin
    have hS : (execState i s).S = { (execState i (answerOk .sender s)).S with
        state := .fatal, timerArmed := false, timerCnt := 0#16, last := .fatal } := congrArg State.S hres
    have hcur : (execState i s).S.curSeq = s.S.curSeq := by
      by_contra hne
      obtain ⟨_, _, _, _, _, hready⟩ := hconfirm hi hne
      simp [hready] at hin
    have hR : (execState i s).R = s.R :=
      ((execState_spares_one hi s).resolve_left fun hs => hout (hs.keepsFatal.mark.mp hin)).engine
    exact ⟨herr, congrArg Sender.timerArmed hS, congrArg Sender.timerCnt hS, congrArg Sender.last hS, hcur, hR,
      beq_iff_eq.mpr hin, fun u hu => exec_next_iff.mp hu ▸ hS, hlog⟩
  case receiver =>
    have hout' : ¬ inFatal .receiver s := ne_true_of_eq_false hout
    obtain ⟨hi, -, herr, hres, hlog⟩ := execState_entersFatal hout' hin
    have hR : (execState i s).R = { (execState i (answerOk .receiver s)).R with fatal := true, last := .fatal } :=
      congrArg State.R hres
    have hS : (execState i s).S = s.S :=
      ((execState_spares_one hi s).resolve_right fun hs => hout' (hs.keepsFatal.mark.mp hin)).engine
    exact ⟨herr, congrArg Receiver.last hR, hS, hin, fun u hu => exec_next_iff.mp hu ▸ hR, hlog⟩
  case senderErr => exact inFatal_of_consumed_err (a := .sender) hi herr (not_errPending_sender hdone)
  case receiverErr => exact inFatal_of_consumed_err (a := .receiver) hi herr (not_errPending_receiver hdone)

/-! ## The observation of a run -/

/-- What a run emits is what its parts emit. -/
theorem emits_trans_iff {s t u : State} (hst : s.log <+: t.log) (htu : t.log <+: u.log) (e : Event) :
    Expected.emits s u e ↔ Expected.emits s t e ∨ Expected.emits t u e := by
  obtain ⟨es, hes⟩ := hst
  obtain ⟨es', hes'⟩ := htu
  have hsu : u.log = s.log ++ (es ++ es') := by rw [← hes', ← hes, List.append_assoc]
  rw [emits_iff_of_log hsu, emits_iff_of_log hes.symm, emits_iff_of_log hes'.symm, List.map_append, List.mem_append]

/-- The test of a run's premise finds every fatal event. -/
theorem noFatalEvent_iff (s t : State) : noFatalEvent s t = true ↔ ∀ a, ¬ Expected.emits s t (.fatal a) := by
  rw [noFatalEvent, beq_iff_eq, fatalAgents, List.filterMap_eq_nil_iff]
  refine ⟨fun h a hem => ?_, fun h e he => ?_⟩
  · obtain ⟨e, he, hfatal⟩ := List.mem_map.mp hem
    have hnone := h e he
    simp [hfatal] at hnone
  · split
    next a ha => exact absurd (List.mem_map.mpr ⟨e, he, ha⟩) (h a)
    next => rfl

/-- A run has no fatal event exactly when its parts have none. -/
theorem noFatalEvent_trans_iff {s t u : State} (hst : s.log <+: t.log) (htu : t.log <+: u.log) :
    noFatalEvent s u = true ↔ noFatalEvent s t = true ∧ noFatalEvent t u = true := by
  simp only [noFatalEvent_iff, emits_trans_iff hst htu, not_or, forall_and]

theorem log_grows_execState (i : Instr) (s : State) : s.log <+: (execState i s).log := by
  obtain ⟨es, hes⟩ := grows_execState i s
  exact ⟨_, hes.symm⟩

/-- The first record of a run that ends is applied, and the others run from where it leaves the machine. -/
theorem runRecords_cons_ended {i : Instr} {is : List Instr} {s t : State} (h : runRecords (i :: is) s = .ended t) :
    runRecords is (finish (execState i s)) = .ended t := by
  rw [runRecords, exec_eq_next] at h
  split at h
  · cases h
  · exact h

/-- A run only adds to the observation (44_host.md R257). -/
theorem log_grows_runRecords {is : List Instr} {s t : State} (h : runRecords is s = .ended t) : s.log <+: t.log := by
  induction is generalizing s with
  | nil => cases h; exact ⟨[], List.append_nil _⟩
  | cons i is ih =>
    have hrest : (finish (execState i s)).log <+: t.log := ih (runRecords_cons_ended h)
    exact (log_grows_execState i s).trans hrest

/-! ## Staying out of FATAL -/

theorem outsideFatal_execState {i : Instr} {s : State} (hout : outsideFatal s = true)
    (hno : noFatalEvent s (execState i s) = true) : outsideFatal (execState i s) = true := by
  rw [outsideFatal_iff] at hout ⊢
  rw [noFatalEvent_iff] at hno
  exact fun a hin => hno a ((execState_emits_fatal_iff a i s).mpr ⟨hout a, hin⟩)

/-- A run without a fatal event keeps both engines out of FATAL (44_host.md R258). -/
theorem outsideFatal_runRecords {is : List Instr} {s t : State} (h : runRecords is s = .ended t)
    (hout : outsideFatal s = true) (hno : noFatalEvent s t = true) : outsideFatal t = true := by
  induction is generalizing s with
  | nil => cases h; exact hout
  | cons i is ih =>
    have hrest := runRecords_cons_ended h
    have hfirstLog : s.log <+: (finish (execState i s)).log := log_grows_execState i s
    obtain ⟨hfirst, hlater⟩ := (noFatalEvent_trans_iff hfirstLog (log_grows_runRecords hrest)).mp hno
    exact ih hrest (outsideFatal_execState hout hfirst) hlater

/-! ## The stay -/

/-- Reset re-initialises both engines (60_exceptions.md R277). -/
theorem execState_rst_engines (s : State) :
    (∃ b : Bytes, (execState .rst s).S = Sender.reset b) ∧ (execState .rst s).R = Receiver.reset := ⟨⟨_, rfl⟩, rfl⟩

/-- Settles O44: along a run by induction on its records; for an instruction, fatal events come with entries only, and
an engine in FATAL is spared by all but reset. -/
theorem fatalUntilReset : Obligations.FatalUntilReset := by
  refine ⟨fun is js s t u hrun => ⟨outsideFatal_runRecords hrun, fun hrun' hev => ?later⟩, fun i s t h => ?instr⟩
  case later =>
    rw [← Bool.not_eq_true] at hev ⊢
    exact fun hno =>
      hev ((noFatalEvent_trans_iff (log_grows_runRecords hrun) (log_grows_runRecords hrun')).mp hno).1
  case instr =>
    obtain rfl := exec_next_iff.mp h
    refine ⟨execState_emits_fatal_iff .sender i s, ?receiverEvent,
      fun hf => ⟨?senderReady, fun hi => ?senderStays, ?senderReset⟩,
      fun hf => ⟨?receiverReady, fun hi => ?receiverStays, ?receiverReset⟩⟩
    case receiverEvent =>
      rw [← Bool.not_eq_true]
      exact execState_emits_fatal_iff .receiver i s
    case senderStays =>
      have hs : Spares .sender s (execState i s) := execState_spares_of_inFatal hi hf
      exact ⟨hs.engine, hs.sentDatagrams_eq⟩
    case receiverStays =>
      have hs : Spares .receiver s (execState i s) := execState_spares_of_inFatal hi hf
      exact ⟨hs.engine, hs.ackDatagrams_eq, hs.deliveries_eq⟩
    case senderReady => simp [sMsgReady, hf]
    case receiverReady => simp [rRxReady, hf]
    case senderReset | receiverReset => rintro rfl; exact execState_rst_engines s

end Sys2Proof.Machine
end

section
/-! PROOFS. The engine right after reset (70_reset_and_hazards.md R301): a sender in READY with sequence bit 0, and a
receiver at the first rows of its transition table. -/

namespace Sys2Proof.Machine

/-- After reset the receiver's fields agree as 10_state.md R31 says. -/
theorem receiverInv_reset : Receiver.reset.Inv := ⟨rfl, by decide⟩

/-- The registers of a reset sender read 0, whatever its buffer holds (10_state.md R40 to R42). -/
theorem senderRegisters_reset {s : State} {b : Bytes} (h : s.S = Sender.reset b) :
    regSStatus s = 0#32 ∧ regSRetx s = 0#32 ∧ regSTimer s = 0#32 := by
  rw [regSStatus, regSRetx, regSTimer, h]
  dsimp only [Sender.reset]
  decide

/-- Of the status of a reset receiver only the bit of `R.lastAck` is set (R43). -/
theorem regRStatus_reset {s : State} (h : s.R = Receiver.reset) : regRStatus s = 2#32 := by
  rw [regRStatus, h]
  decide

/-- A message within MAX_PAYLOAD is framed with the sender's sequence bit and transmitted once, whatever the transport
answers (43_sender.md R210). -/
theorem sendMessage_sentDatagrams {m : Bytes} {s : State} (h : m.length ≤ s.cfg.maxPayload.val) :
    sentDatagrams (sendMessage m s).log = sentDatagrams s.log ++ [encodePacket s.cfg m false s.S.curSeq] := by
  cases hf : s.failS
  · rw [sendMessage_ok h hf, sentDatagrams_append]
    rfl
  · rw [sendMessage_err h hf, sentDatagrams_append, sentDatagrams_append]
    exact List.append_nil _

/-- A receiver that waits for the seqNum `x`, with an application that takes the payload, delivers a valid datagram
exactly when it carries `x` (42_receiver.md R183, R184). -/
theorem receiverDatagram_delivers_iff {d : Bytes} {s : State} {x : Bool} (hI : s.R.Inv) (hb : s.rBusy = none)
    (hx : s.R.control = waitFor x) (hd : s.ports.rDlvReady = true) (hv : (decodeDatagram s.cfg d).valid = true) :
    deliveries (receiverDatagram d s).log ≠ deliveries s.log ↔ (decodeDatagram s.cfg d).seqNum = x := by
  by_cases hs : (decodeDatagram s.cfg d).seqNum = x
  · obtain ⟨hdlv, -⟩ := acceptRow hb hx hd hv hs
    simp [hdlv, hs]
  · obtain ⟨hdlv, -⟩ := duplicateRow hb hx hI hv (Bool.eq_not.mpr hs)
    simp [hdlv, hs]

/-- Settles O46: the fields hold their reset values, the first message is framed with them, and the datagrams are the
rows of the transition table for a receiver that waits for seqNum 0. -/
theorem engineAfterReset : Obligations.EngineAfterReset := by
  intro c p s
  have hx : s.R.control = waitFor false := rfl
  obtain ⟨hstatus, hretx, htimer⟩ := senderRegisters_reset (s := s) rfl
  refine ⟨rfl, rfl, rfl, fun m t hm h => ?sends, fun d t h hv hd => ?delivers, fun d t h hv => ?acksCorrupt,
    hstatus, hretx, htimer, regRStatus_reset rfl, rfl, rfl, rfl⟩
  case sends =>
    obtain rfl := exec_next_iff.mp h
    exact sendMessage_sentDatagrams (s := s) hm
  case delivers =>
    obtain rfl := exec_next_iff.mp h
    exact receiverDatagram_delivers_iff receiverInv_reset rfl hx hd hv
  case acksCorrupt =>
    obtain rfl := exec_next_iff.mp h
    obtain ⟨-, hack, -⟩ := corruptRow rfl hx receiverInv_reset hv
    exact hack

end Sys2Proof.Machine
end

section
/-! PROOFS. The two decoders against the encoder (30_encoding.md R90, R94, R109): what is encoded is read back, and what
is read was encoded so. -/

namespace Sys2Proof.Machine

/-! ## Operands (R109, R110) -/

theorem be16_word16 (hi lo : Byte) : be16 (word16 hi lo) = [hi, lo] := by
  rw [be16, word16]
  exact congrArg₂ (fun x y => [x, y]) BitVec.extractLsb'_append_eq_left BitVec.extractLsb'_append_eq_right

theorem operandOk_iff {b : Bytes} : operandOk b = true ↔ b.length ≤ 65535 := decide_eq_true_iff

/-- The 16-bit length field holds the length of an operand within the limit. -/
theorem lengthField_toNat {v : Bytes} (h : operandOk v = true) : (BitVec.ofNat 16 v.length).toNat = v.length := by
  rw [operandOk_iff] at h
  rw [BitVec.toNat_ofNat, Nat.mod_eq_of_lt (by omega)]

/-- An operand whose bytes are all there is read; else the record is cut off. -/
theorem takeOperand_cons (l1 l0 : Byte) (b : Bytes) :
    takeOperand (l1 :: l0 :: b) = if b.length < (word16 l1 l0).toNat then .error .truncatedRecord
      else .ok (b.take (word16 l1 l0).toNat, b.drop (word16 l1 l0).toNat) := rfl

theorem encodeOperand_eq_cons (v : Bytes) :
    encodeOperand v = (BitVec.ofNat 16 v.length).extractLsb' 8 8 :: (BitVec.ofNat 16 v.length).extractLsb' 0 8 :: v := rfl

theorem takeOperand_encodeOperand {v : Bytes} (h : operandOk v = true) (rest : Bytes) :
    takeOperand (encodeOperand v ++ rest) = .ok (v, rest) := by
  rw [encodeOperand_eq_cons, List.cons_append, List.cons_append, takeOperand_cons, word16_be16, lengthField_toNat h]
  simp

/-- What is read as an operand was encoded so, and its length fits the 16-bit field. -/
theorem takeOperand_ok {b v rest : Bytes} (h : takeOperand b = .ok (v, rest)) :
    b = encodeOperand v ++ rest ∧ operandOk v = true := by
  rcases b with _ | ⟨l1, _ | ⟨l0, b⟩⟩
  · cases h
  · cases h
  · rw [takeOperand_cons] at h
    split at h
    next => cases h
    next hlen =>
      cases h
      have hn := (word16 l1 l0).isLt
      have htake : (b.take (word16 l1 l0).toNat).length = (word16 l1 l0).toNat := by
        rw [List.length_take]; omega
      refine ⟨?_, operandOk_iff.mpr (by omega)⟩
      rw [encodeOperand, htake, BitVec.ofNat_toNat, BitVec.setWidth_eq, be16_word16, List.append_assoc,
        List.take_append_drop]
      rfl

/-- An operand cut off anywhere is no operand (R112). -/
theorem takeOperand_truncated {v : Bytes} {k : Nat} (hv : operandOk v = true) (hk : k < (encodeOperand v).length) :
    takeOperand ((encodeOperand v).take k) = .error .truncatedRecord := by
  rw [encodeOperand_eq_cons] at hk ⊢
  rcases k with _ | _ | k
  · rfl
  · rfl
  · have hlt : (v.take k).length < v.length := by
      simp only [List.length_cons] at hk
      rw [List.length_take]; omega
    rw [List.take_succ_cons, List.take_succ_cons, takeOperand_cons, word16_be16, lengthField_toNat hv, if_pos hlt]

theorem takeOperand_error {b : Bytes} {e : DecodeError} (h : takeOperand b = .error e) : e = .truncatedRecord := by
  rcases b with _ | ⟨l1, _ | ⟨l0, b⟩⟩
  · cases h; rfl
  · cases h; rfl
  · rw [takeOperand_cons] at h
    split at h <;> cases h
    rfl

/-! ## Records of each format -/

theorem decodeT1_of_ok {mk : Bytes → Instr} {b v rest : Bytes} (h : takeOperand b = .ok (v, rest)) :
    decodeT1 mk b = .ok (mk v, rest) := by
  rw [decodeT1, h]

theorem decodeT1_of_error {mk : Bytes → Instr} {b : Bytes} {e : DecodeError} (h : takeOperand b = .error e) :
    decodeT1 mk b = .error e := by
  rw [decodeT1, h]

theorem decodeT1_encodeOperand {mk : Bytes → Instr} {v : Bytes} (h : operandOk v = true) (rest : Bytes) :
    decodeT1 mk (encodeOperand v ++ rest) = .ok (mk v, rest) := decodeT1_of_ok (takeOperand_encodeOperand h rest)

theorem decodeT1_ok {mk : Bytes → Instr} {b rest : Bytes} {i : Instr} (h : decodeT1 mk b = .ok (i, rest)) :
    ∃ v, i = mk v ∧ b = encodeOperand v ++ rest ∧ operandOk v = true := by
  cases ht : takeOperand b with
  | error e => rw [decodeT1_of_error ht] at h; cases h
  | ok r =>
    obtain ⟨v, rest'⟩ := r
    rw [decodeT1_of_ok ht] at h
    cases h
    exact ⟨v, rfl, takeOperand_ok ht⟩

theorem decodeT1_truncated {mk : Bytes → Instr} {v : Bytes} {k : Nat} (hv : operandOk v = true)
    (hk : k < (encodeOperand v).length) : decodeT1 mk ((encodeOperand v).take k) = .error .truncatedRecord :=
  decodeT1_of_error (takeOperand_truncated hv hk)

theorem decodeT1_error {mk : Bytes → Instr} {b : Bytes} {e : DecodeError} (h : decodeT1 mk b = .error e) :
    e = .truncatedRecord := by
  cases ht : takeOperand b with
  | error e' => rw [decodeT1_of_error ht] at h; cases h; exact takeOperand_error ht
  | ok r => rw [decodeT1_of_ok ht] at h; cases h

/-- The flags byte of T2: two flag bits below six zero bits. -/
def flagsByte (a q : Bool) : Byte := (0#6 ++ BitVec.ofBool a ++ BitVec.ofBool q : BitVec (6 + 1 + 1))

theorem flagsByte_fields (a q : Bool) : (flagsByte a q).extractLsb' 2 6 = 0#6 ∧ (flagsByte a q).getLsbD 1 = a ∧
    (flagsByte a q).getLsbD 0 = q := by
  cases a <;> cases q <;> decide

theorem flagsByte_of_reserved_zero {f : Byte} (h : f.extractLsb' 2 6 = 0#6) :
    f = flagsByte (f.getLsbD 1) (f.getLsbD 0) := by
  apply BitVec.eq_of_getLsbD_eq
  intro i hi
  rw [flagsByte, ← h]
  simp only [BitVec.getLsbD_append, BitVec.getLsbD_extractLsb']
  rcases i with _ | _ | i
  · simp
  · simp
  · have hbit : 2 + i = i + 1 + 1 := by omega
    have hlt : i < 6 := by omega
    simp [hbit, hlt]

theorem decodeT2_cons (f : Byte) (b : Bytes) :
    decodeT2 (f :: b) = if f.extractLsb' 2 6 ≠ 0#6 then .error (.reservedFlags f)
      else decodeT1 (.cEncode (f.getLsbD 1) (f.getLsbD 0)) b := rfl

theorem decodeT2_flagsByte (a q : Bool) (b : Bytes) : decodeT2 (flagsByte a q :: b) = decodeT1 (.cEncode a q) b := by
  obtain ⟨hzero, hack, hseq⟩ := flagsByte_fields a q
  rw [decodeT2_cons, hzero, hack, hseq]
  rfl

theorem decodeT2_ok {b rest : Bytes} {i : Instr} (h : decodeT2 b = .ok (i, rest)) :
    ∃ a q v, i = .cEncode a q v ∧ b = flagsByte a q :: encodeOperand v ++ rest ∧ operandOk v = true := by
  rcases b with _ | ⟨f, b⟩
  · cases h
  · rw [decodeT2_cons] at h
    split at h
    next => cases h
    next hzero =>
      obtain ⟨v, rfl, rfl, hv⟩ := decodeT1_ok h
      exact ⟨_, _, v, rfl, congrArg (· :: _) (flagsByte_of_reserved_zero (not_not.mp hzero)), hv⟩

/-- The address byte of T3: four address bits below four zero bits. -/
def addressByte (a : BitVec 4) : Byte := (0#4 ++ a : BitVec (4 + 4))

theorem decodeT3_cons (x : Byte) (b : Bytes) :
    decodeT3 (x :: b) = if x.extractLsb' 4 4 ≠ 0#4 then .error (.reservedAddr x)
      else .ok (.hRead (x.extractLsb' 0 4), b) := rfl

theorem decodeT3_addressByte (a : BitVec 4) (b : Bytes) : decodeT3 (addressByte a :: b) = .ok (.hRead a, b) := by
  have hzero : (addressByte a).extractLsb' 4 4 = 0#4 := BitVec.extractLsb'_append_eq_left
  have hreg : (addressByte a).extractLsb' 0 4 = a := BitVec.extractLsb'_append_eq_right
  rw [decodeT3_cons, hzero, hreg]
  rfl

theorem decodeT3_ok {b rest : Bytes} {i : Instr} (h : decodeT3 b = .ok (i, rest)) :
    ∃ a, i = .hRead a ∧ b = addressByte a :: rest := by
  rcases b with _ | ⟨x, b⟩
  · cases h
  · rw [decodeT3_cons] at h
    split at h
    next => cases h
    next hzero =>
      cases h
      have hx : x = addressByte (x.extractLsb' 0 4) := by
        rw [addressByte, ← not_not.mp hzero]
        exact (BitVec.extractLsb'_append_extractLsb' (w := 4) (len := 4)).symm
      exact ⟨_, rfl, congrArg (· :: _) hx⟩

/-! ## Trace records -/

/-- The first record of a trace is read, and the bytes after it are left. -/
theorem decodeRecord_encode {i : Instr} (hwf : i.wf = true) (hch : i.channel = .trace) (rest : Bytes) :
    decodeRecord (encode i ++ rest) = .ok (i, rest) := by
  cases i with
  | dataSeq0 _ | dataSeq1 _ | ackSeq0 _ | ackSeq1 _ => cases hch
  | sTick | sTxFail | rTxFail | rst => rfl
  | sSend _ | sResp _ | rDgram _ | cCsum _ | cVerify _ | cDecode _ => exact decodeT1_encodeOperand hwf rest
  | cEncode a q p => exact (decodeT2_flagsByte a q _).trans (decodeT1_encodeOperand hwf rest)
  | hRead a => exact decodeT3_addressByte a rest

/-- The code bytes of R99. -/
def recordCodes : List Byte :=
  [0x01#8, 0x02#8, 0x03#8, 0x08#8, 0x10#8, 0x11#8, 0x12#8, 0x13#8, 0x20#8, 0x40#8, 0x41#8, 0xFF#8]

theorem decodeRecord_of_reserved {code : Byte} (h : code ∉ recordCodes) (b : Bytes) :
    decodeRecord (code :: b) = .error (.reservedCode code) := by
  simp only [recordCodes, List.mem_cons, List.not_mem_nil, or_false, not_or] at h
  simp only [decodeRecord, h, if_false]

/-- How the record with the code byte `code` is read: by its format of R99, with the operand in `b`. -/
inductive RecordFormat (code : Byte) (b : Bytes) : Prop where
  /-- A record without operand. -/
  | t0 (i : Instr) (spelled : encode i = [code]) (channel : i.channel = .trace) (wf : i.wf = true)
    (read : decodeRecord (code :: b) = .ok (i, b))
  /-- A record with a byte string. -/
  | t1 (mk : Bytes → Instr) (spelled : ∀ v, encode (mk v) = code :: encodeOperand v)
    (channel : ∀ v, (mk v).channel = .trace) (wf : ∀ v, (mk v).wf = operandOk v)
    (read : decodeRecord (code :: b) = decodeT1 mk b)
  /-- `C_ENCODE`. -/
  | t2 (code_eq : code = 0x12#8) (read : decodeRecord (code :: b) = decodeT2 b)
  /-- `H_READ`. -/
  | t3 (code_eq : code = 0x20#8) (read : decodeRecord (code :: b) = decodeT3 b)
  /-- No record has this code. -/
  | reserved (not_listed : code ∉ recordCodes) (read : decodeRecord (code :: b) = .error (.reservedCode code))

theorem recordFormat (code : Byte) (b : Bytes) : RecordFormat code b := by
  by_cases h01 : code = 0x01#8
  · subst h01; exact .t1 .sSend (fun _ => rfl) (fun _ => rfl) (fun _ => rfl) rfl
  by_cases h02 : code = 0x02#8
  · subst h02; exact .t1 .sResp (fun _ => rfl) (fun _ => rfl) (fun _ => rfl) rfl
  by_cases h03 : code = 0x03#8
  · subst h03; exact .t0 .sTick rfl rfl rfl rfl
  by_cases h08 : code = 0x08#8
  · subst h08; exact .t1 .rDgram (fun _ => rfl) (fun _ => rfl) (fun _ => rfl) rfl
  by_cases h10 : code = 0x10#8
  · subst h10; exact .t1 .cCsum (fun _ => rfl) (fun _ => rfl) (fun _ => rfl) rfl
  by_cases h11 : code = 0x11#8
  · subst h11; exact .t1 .cVerify (fun _ => rfl) (fun _ => rfl) (fun _ => rfl) rfl
  by_cases h12 : code = 0x12#8
  · subst h12; exact .t2 rfl rfl
  by_cases h13 : code = 0x13#8
  · subst h13; exact .t1 .cDecode (fun _ => rfl) (fun _ => rfl) (fun _ => rfl) rfl
  by_cases h20 : code = 0x20#8
  · subst h20; exact .t3 rfl rfl
  by_cases h40 : code = 0x40#8
  · subst h40; exact .t0 .sTxFail rfl rfl rfl rfl
  by_cases h41 : code = 0x41#8
  · subst h41; exact .t0 .rTxFail rfl rfl rfl rfl
  by_cases hFF : code = 0xFF#8
  · subst hFF; exact .t0 .rst rfl rfl rfl rfl
  have hres : code ∉ recordCodes := by
    simp only [recordCodes, List.mem_cons, List.not_mem_nil, or_false, not_or]
    exact ⟨h01, h02, h03, h08, h10, h11, h12, h13, h20, h40, h41, hFF⟩
  exact .reserved hres (decodeRecord_of_reserved hres b)

/-- What is read as a record was encoded so. -/
theorem decodeRecord_ok {b rest : Bytes} {i : Instr} (h : decodeRecord b = .ok (i, rest)) :
    b = encode i ++ rest ∧ i.channel = .trace ∧ i.wf = true := by
  rcases b with _ | ⟨code, b⟩
  · cases h
  cases recordFormat code b with
  | t0 j spelled channel wf read =>
    rw [read] at h
    cases h
    exact ⟨by rw [spelled]; rfl, channel, wf⟩
  | t1 mk spelled channel wf read =>
    rw [read] at h
    obtain ⟨v, rfl, rfl, hv⟩ := decodeT1_ok h
    exact ⟨by rw [spelled]; rfl, channel v, (wf v).trans hv⟩
  | t2 code_eq read =>
    rw [read] at h
    obtain ⟨a, q, v, rfl, rfl, hv⟩ := decodeT2_ok h
    exact ⟨by rw [code_eq]; rfl, rfl, hv⟩
  | t3 code_eq read =>
    rw [read] at h
    obtain ⟨a, rfl, rfl⟩ := decodeT3_ok h
    exact ⟨by rw [code_eq]; rfl, rfl, rfl⟩
  | reserved not_listed read => rw [read] at h; cases h

/-! ## Packets on the wire (R90, R94) -/

/-- The packet class of the two flags (R94). -/
def wireInstr (a q : Bool) (p : Packet) : Instr :=
  match a, q with
  | false, false => .dataSeq0 p
  | false, true => .dataSeq1 p
  | true, false => .ackSeq0 p
  | true, true => .ackSeq1 p

theorem packetOfClass_eq (h : Word16) (p : Packet) : packetOfClass h p = wireInstr (headerAck h) (headerSeq h) p := rfl

theorem encode_wireInstr (a q : Bool) (p : Packet) : encode (wireInstr a q p) = wireBytes p a q := by
  cases a <;> cases q <;> rfl

theorem wireInstr_channel (a q : Bool) (p : Packet) : (wireInstr a q p).channel = .wire := by
  cases a <;> cases q <;> rfl

theorem wireInstr_wf (a q : Bool) (p : Packet) : (wireInstr a q p).wf = operandOk (wireBytes p a q) := by
  rw [operandOk, wireBytes_length]
  cases a <;> cases q <;> rfl

theorem decodeWire_header (m : Magic) (c0 c1 h0 h1 : Byte) (payload : Bytes) :
    decodeWire (m.bytes ++ [c0, c1] ++ [h0, h1] ++ payload) =
      .ok (packetOfClass (word16 h0 h1) ⟨m, word16 c0 c1, headerLength (word16 h0 h1), payload⟩) := rfl

/-- A packet's datagram is read as the class of its flags. -/
theorem decodeWire_wireBytes (p : Packet) (a q : Bool) : decodeWire (wireBytes p a q) = .ok (wireInstr a q p) := by
  rw [wireBytes, be16, be16, decodeWire_header, word16_be16, word16_be16, packetOfClass_eq, headerLength_packHeader,
    headerAck_packHeader, headerSeq_packHeader]

/-- Every datagram with a header is a packet (R97). -/
theorem exists_wireBytes {d : Bytes} (h : 12 ≤ d.length) :
    ∃ p, d = wireBytes p (headerAck (u16be d 10)) (headerSeq (u16be d 10)) := by
  rcases d with _ | ⟨m0, _ | ⟨m1, _ | ⟨m2, _ | ⟨m3, _ | ⟨m4, _ | ⟨m5, _ | ⟨m6, _ | ⟨m7, _ | ⟨c0, _ | ⟨c1, _ | ⟨h0,
    _ | ⟨h1, payload⟩⟩⟩⟩⟩⟩⟩⟩⟩⟩⟩⟩
  case cons.cons.cons.cons.cons.cons.cons.cons.cons.cons.cons.cons =>
    have hu : u16be (m0 :: m1 :: m2 :: m3 :: m4 :: m5 :: m6 :: m7 :: c0 :: c1 :: h0 :: h1 :: payload) 10 = word16 h0 h1 :=
      rfl
    refine ⟨⟨⟨m0, m1, m2, m3, m4, m5, m6, m7⟩, word16 c0 c1, headerLength (word16 h0 h1), payload⟩, ?_⟩
    rw [hu, wireBytes, packHeader_fields, be16_word16, be16_word16]
    rfl
  all_goals simp only [List.length_cons, List.length_nil] at h; omega

theorem decodeWire_of_short {d : Bytes} (h : d.length < 12) : decodeWire d = .error .headerMissing := by
  unfold decodeWire
  split
  next => simp only [List.length_cons] at h; omega
  next => rfl

/-- What is read as a packet was encoded so. -/
theorem decodeWire_ok {d : Bytes} {i : Instr} (h : decodeWire d = .ok i) :
    d = encode i ∧ i.channel = .wire ∧ i.wf = operandOk d := by
  rcases Nat.lt_or_ge d.length 12 with hlen | hlen
  · rw [decodeWire_of_short hlen] at h; cases h
  · obtain ⟨p, hp⟩ := exists_wireBytes hlen
    rw [hp, decodeWire_wireBytes] at h
    cases h
    rw [encode_wireInstr, wireInstr_wf, ← hp]
    exact ⟨rfl, wireInstr_channel _ _ p, rfl⟩

theorem decode_wire_of_ok {d : Bytes} {i : Instr} (h : decodeWire d = .ok i) : decode .wire d = .ok (i, []) := by
  rw [decode, h]

theorem decode_wire_ok {d rest : Bytes} {i : Instr} (h : decode .wire d = .ok (i, rest)) :
    decodeWire d = .ok i ∧ rest = [] := by
  rw [decode] at h
  split at h
  next j hj => cases h; exact ⟨hj, rfl⟩
  next => cases h

/-- A packet class is read back from its datagram. -/
theorem decodeWire_encode {i : Instr} (hch : i.channel = .wire) : decodeWire (encode i) = .ok i := by
  cases i with
  | dataSeq0 p => exact decodeWire_wireBytes p false false
  | dataSeq1 p => exact decodeWire_wireBytes p false true
  | ackSeq0 p => exact decodeWire_wireBytes p true false
  | ackSeq1 p => exact decodeWire_wireBytes p true true
  | _ => cases hch

/-! ## The statements -/

/-- Settles O1: a packet by the fields of its header, a record by its format. -/
theorem decodeReversesEncode : Obligations.DecodeReversesEncode := by
  intro i hwf
  cases hch : i.channel with
  | wire => exact decode_wire_of_ok (decodeWire_encode hch)
  | trace =>
    have h := decodeRecord_encode hwf hch []
    rwa [List.append_nil] at h

/-- Settles O3: the inversion of either decoder. -/
theorem eachInstructionHasOneSpelling : Obligations.EachInstructionHasOneSpelling := by
  intro ch b i rest h
  cases ch with
  | wire =>
    obtain ⟨hd, rfl⟩ := decode_wire_ok h
    obtain ⟨hb, hch, hwf⟩ := decodeWire_ok hd
    refine ⟨by rw [List.append_nil]; exact hb, hch, fun hlen => hwf.trans ?_⟩
    exact operandOk_iff.mpr (hlen.resolve_left nofun)
  | trace =>
    obtain ⟨hb, hch, hwf⟩ := decodeRecord_ok h
    exact ⟨hb, hch, fun _ => hwf⟩

/-- The low two bits of a header word are its flags (R91). -/
theorem header_mod_four (h : Word16) : h.toNat % 4 = (headerAck h).toNat * 2 + (headerSeq h).toNat := by
  have hval := packHeader_toNat (headerLength h) (headerAck h) (headerSeq h)
  rw [packHeader_fields] at hval
  have hack := (headerAck h).toNat_lt
  have hseq := (headerSeq h).toNat_lt
  omega

theorem wireBytes_totalLength (p : Packet) (a q : Bool) :
    p.totalLength.toNat = (u16be (wireBytes p a q) 10).toNat / 4 := by
  rw [u16be_wireBytes, ← headerLength_toNat, headerLength_packHeader]

/-- A datagram whose header's low bits are the flags `a` and `q` is a packet of their class. -/
theorem decode_wire_class {d : Bytes} {p : Packet} {a q : Bool}
    (hp : d = wireBytes p (headerAck (u16be d 10)) (headerSeq (u16be d 10)))
    (hmod : (u16be d 10).toNat % 4 = a.toNat * 2 + q.toNat) :
    decode .wire d = .ok (wireInstr a q p, []) ∧ encode (wireInstr a q p) = d := by
  rw [header_mod_four] at hmod
  have hflags : headerAck (u16be d 10) = a ∧ headerSeq (u16be d 10) = q := by
    generalize headerAck (u16be d 10) = x, headerSeq (u16be d 10) = y at hmod
    revert x y a q
    decide
  rw [hflags.1, hflags.2] at hp
  rw [hp]
  exact ⟨decode_wire_of_ok (decodeWire_wireBytes p a q), encode_wireInstr a q p⟩

/-- Settles O7: a datagram with a header is a packet with the flags of its header. -/
theorem lowHeaderBitsSelectPacketClass : Obligations.LowHeaderBitsSelectPacketClass := by
  intro d hlen
  obtain ⟨p, hp⟩ := exists_wireBytes hlen
  refine ⟨p, decode_wire_class (a := false) (q := false) hp, decode_wire_class (a := false) (q := true) hp,
    decode_wire_class (a := true) (q := false) hp, decode_wire_class (a := true) (q := true) hp, ?_, ?_⟩
  · rw [hp, u16be_wireBytes, wireBytes_totalLength p, u16be_wireBytes]
  · rw [hp]; rfl

/-! ## Whole traces -/

theorem decodeRecords_cons {n : Nat} {x : Byte} {b rest : Bytes} {i : Instr}
    (h : decodeRecord (x :: b) = .ok (i, rest)) :
    decodeRecords (n + 1) (x :: b) = (decodeRecords n rest).map (i :: ·) := by
  rw [decodeRecords, h]
  dsimp only
  cases decodeRecords n rest <;> rfl

theorem encode_ne_nil (i : Instr) : encode i ≠ [] := by
  cases i <;> exact List.cons_ne_nil _ _

theorem decodeRecords_nil (n : Nat) : decodeRecords n [] = .ok [] := by
  cases n <;> rfl

/-- What a non-empty trace decodes to is its first record and what the rest decodes to. -/
theorem decodeRecords_ok_cons {n : Nat} {x : Byte} {b : Bytes} {is : List Instr}
    (h : decodeRecords n (x :: b) = .ok is) :
    ∃ m i rest js, n = m + 1 ∧ decodeRecord (x :: b) = .ok (i, rest) ∧ decodeRecords m rest = .ok js ∧ is = i :: js := by
  cases n with
  | zero => cases h
  | succ m =>
    cases hd : decodeRecord (x :: b) with
    | error e => rw [decodeRecords, hd] at h; cases h
    | ok r =>
      obtain ⟨i, rest⟩ := r
      rw [decodeRecords_cons hd] at h
      cases hr : decodeRecords m rest with
      | error e => rw [hr] at h; cases h
      | ok js => rw [hr] at h; cases h; exact ⟨m, i, rest, js, rfl, rfl, hr, rfl⟩

theorem decodeRecords_encodeTrace {is : List Instr} (h : ∀ i ∈ is, i.wf = true ∧ i.channel = .trace) {n : Nat}
    (hn : (encodeTrace is).length ≤ n) : decodeRecords n (encodeTrace is) = .ok is := by
  induction is generalizing n with
  | nil => exact decodeRecords_nil n
  | cons i is ih =>
    obtain ⟨⟨hwf, hch⟩, his⟩ := List.forall_mem_cons.mp h
    have hcons : encodeTrace (i :: is) = encode i ++ encodeTrace is := List.flatMap_cons
    have hread := decodeRecord_encode hwf hch (encodeTrace is)
    rw [hcons, List.length_append] at hn
    rw [hcons]
    obtain ⟨x, b, hx⟩ := List.exists_cons_of_ne_nil (encode_ne_nil i)
    rw [hx, List.cons_append] at hread ⊢
    rw [hx, List.length_cons] at hn
    obtain ⟨m, rfl⟩ : ∃ m, n = m + 1 := ⟨n - 1, by omega⟩
    rw [decodeRecords_cons hread, ih his (by omega)]
    rfl

theorem decodeRecords_wf {n : Nat} {b : Bytes} {is : List Instr} (h : decodeRecords n b = .ok is) :
    ∀ i ∈ is, i.wf = true ∧ i.channel = .trace := by
  induction n generalizing b is with
  | zero =>
    cases b with
    | nil => cases h; nofun
    | cons x b => cases h
  | succ n ih =>
    cases b with
    | nil => cases h; nofun
    | cons x b =>
      obtain ⟨m, i, rest, js, hm, hread, hrest, rfl⟩ := decodeRecords_ok_cons h
      cases hm
      obtain ⟨-, hch, hwf⟩ := decodeRecord_ok hread
      exact List.forall_mem_cons.mpr ⟨⟨hwf, hch⟩, ih hrest⟩

/-- Settles O2, by induction on the records. -/
theorem traceDecodesRecordByRecord : Obligations.TraceDecodesRecordByRecord :=
  ⟨fun _ rest hwf hch => decodeRecord_encode hwf hch rest, fun _ h => decodeRecords_encodeTrace h le_rfl,
    fun _ _ h => decodeRecords_wf h⟩

end Sys2Proof.Machine
end

section
/-! PROOFS. The engines' transactions as 42_receiver.md R180 and 43_sender.md R210, R212 state them: the whole next state of
each branch. -/

namespace Sys2Proof.Machine

/-! ## What is read of a datagram (41_codec.md R156, 43_sender.md R213) -/

/-- The model's response test is that of R213. -/
theorem responseGood_iff {c : Config} {d : Bytes} :
    responseGood c (decodeDatagram c d) = true ↔ Expected.good c d := by
  refine ⟨good_of_responseGood, fun ⟨hmin, hmax, hsum⟩ => ?_⟩
  rw [responseGood, Bool.and_eq_true, Bool.or_eq_true, Bool.not_eq_true']
  exact ⟨(sizeOk_iff c d).mpr ⟨hmin, hmax⟩, hsum⟩

theorem decodeDatagram_valid_iff {c : Config} {d : Bytes} :
    (decodeDatagram c d).valid = true ↔ 12 ≤ d.length ∧ d.length ≤ c.maxDgram ∧ verify d = true := by
  have hv : (decodeDatagram c d).valid = (sizeOk c d && verify d) := rfl
  rw [hv, Bool.and_eq_true, sizeOk_iff, and_assoc]

theorem decodeDatagram_valid_eq_false_iff {c : Config} {d : Bytes} :
    (decodeDatagram c d).valid = false ↔ d.length < 12 ∨ c.maxDgram < d.length ∨ verify d = false := by
  rw [← Bool.not_eq_true, decodeDatagram_valid_iff, not_and_or, not_and_or, Nat.not_le, Nat.not_le, Bool.not_eq_true]

/-- A valid datagram is good for the sender, too. -/
theorem good_of_valid {c : Config} {d : Bytes} (h : (decodeDatagram c d).valid = true) : Expected.good c d := by
  obtain ⟨hmin, hmax, hsum⟩ := decodeDatagram_valid_iff.mp h
  exact ⟨hmin, hmax, .inl hsum⟩

theorem decodeDatagram_payload_of_valid {c : Config} {d : Bytes} (h : (decodeDatagram c d).valid = true) :
    (decodeDatagram c d).payload = d.drop 12 := by
  obtain ⟨hmin, hmax, -⟩ := decodeDatagram_valid_iff.mp h
  exact decodeDatagram_payload ((sizeOk_iff c d).mpr ⟨hmin, hmax⟩)

/-! ## The sender's branches for a datagram (43_sender.md R214, R215) -/

theorem senderDatagram_of_waiting {d : Bytes} {s : State} (h : s.S.state = .waitAck) :
    senderDatagram d s = handleResponse d s := if_pos h

section Waiting

variable {d : Bytes} {s : State} (hw : s.S.state = .waitAck)
include hw

theorem senderDatagram_confirmed (hg : Expected.good s.cfg d) (hs : (u16be d 10).getLsbD 0 = s.S.curSeq) :
    senderDatagram d s = Expected.confirmed s := by
  rw [senderDatagram_of_waiting hw]
  rcases handleResponse_cases d s with ⟨_, _, e⟩ | ⟨hn, _⟩
  · exact e
  · exact absurd ⟨responseGood_iff.mpr hg, (decodeDatagram_seqNum hg.1).trans hs⟩ hn

theorem senderDatagram_stale (hg : Expected.good s.cfg d) (hs : (u16be d 10).getLsbD 0 ≠ s.S.curSeq) :
    senderDatagram d s = Expected.rearmed s .staleAck := by
  rw [senderDatagram_of_waiting hw]
  rcases handleResponse_cases d s with ⟨_, hseq, _⟩ | ⟨_, e⟩
  · exact absurd ((decodeDatagram_seqNum hg.1).symm.trans hseq) hs
  · rw [e, if_pos (responseGood_iff.mpr hg)]; rfl

theorem senderDatagram_corrupt (hg : ¬ Expected.good s.cfg d) : senderDatagram d s = Expected.rearmed s .corrupt := by
  rw [senderDatagram_of_waiting hw]
  rcases handleResponse_cases d s with ⟨hgood, _⟩ | ⟨_, e⟩
  · exact absurd (responseGood_iff.mp hgood) hg
  · rw [e, if_neg (mt responseGood_iff.mp hg)]; rfl

end Waiting

/-! ## The receiver's branches (42_receiver.md R180 to R188) -/

/-- A branch's updates and its ack, whatever the transport answers. -/
theorem sendAck_eq_acked (x : Bool) (r : Receiver) (es : List Event) (s : State) :
    sendAck x { s with R := r, log := Expected.logged s es } = Expected.acked s r es x := by
  rcases Bool.eq_false_or_eq_true s.failR with h | h
  · rw [sendAck_err (s := { s with R := r, log := Expected.logged s es }) h]
    simp [Expected.acked, Expected.logged, h]
  · rw [sendAck_ok (s := { s with R := r, log := Expected.logged s es }) h]
    simp [Expected.acked, Expected.logged, h]

theorem corrupt_eq_received (s : State) (seq : Bool) (p : Bytes) :
    sendAck s.R.lastAck (receiveCorrupt s) = Expected.received s false seq p := by
  have h := sendAck_eq_acked s.R.lastAck { s.R with cntCorrupt := s.R.cntCorrupt + 1#32, last := .corrupt } [] s
  rw [Expected.logged, List.map_nil, List.append_nil] at h
  exact h

theorem duplicate_eq_received {s : State} {seq : Bool} (hs : seq ≠ s.R.expSeq) (p : Bytes) :
    sendAck seq (receiveDuplicate s) = Expected.received s true seq p := by
  have h := sendAck_eq_acked seq { s.R with cntDup := s.R.cntDup + 1#32, last := .duplicate } [] s
  rw [Expected.logged, List.map_nil, List.append_nil] at h
  rw [Expected.received, if_neg nofun, if_neg hs]
  exact h

theorem completeAccept_eq_received (p : Bytes) (s : State) :
    completeAccept p s = Expected.received s true s.R.expSeq p := by
  rw [Expected.received, if_neg nofun, if_pos rfl]
  exact sendAck_eq_acked _ _ [.rDlv p] s

/-- What a datagram that does not wait makes of the state. -/
theorem receiveDatagram_eq_received {d : Bytes} {s : State} (h : acceptWaits d s = false) :
    receiveDatagram d s = Expected.received s (decodeDatagram s.cfg d).valid (decodeDatagram s.cfg d).seqNum
      (decodeDatagram s.cfg d).payload := by
  rcases receiveDatagram_cases d s with ⟨hv, e⟩ | ⟨hv, hs, e⟩ | ⟨hv, hs, _, e⟩ | ⟨hw, _⟩
  · rw [e, hv]; exact corrupt_eq_received s _ _
  · rw [e, hv]; exact duplicate_eq_received hs _
  · rw [e, hv, hs]; exact completeAccept_eq_received _ s
  · exact absurd hw (ne_true_of_eq_false h)

/-- Nothing but the validity counts of a datagram that is not valid. -/
theorem received_invalid (s : State) (seq seq' : Bool) (p p' : Bytes) :
    Expected.received s false seq p = Expected.received s false seq' p' := rfl

theorem acceptWaits_eq_false_of_invalid {d : Bytes} {s : State} (h : (decodeDatagram s.cfg d).valid = false) :
    acceptWaits d s = false := by
  simp [acceptWaits, h]

theorem receiverDatagram_of_not_ready {d : Bytes} {s : State} (h : rRxReady s = false) : receiverDatagram d s = s :=
  if_neg (ne_true_of_eq_false h)

theorem rRxReady_eq_false {s : State} : rRxReady s = false ↔ s.R.fatal = true ∨ s.rBusy ≠ none := by
  rw [← Bool.not_eq_true, rRxReady_eq_true, not_and_or, Bool.not_eq_false]

/-! ## Statements about what a datagram's fields do -/

/-- The receiver reads validity, seqNum and payload only. -/
theorem receiverDatagram_congr {d d' : Bytes} {s : State}
    (hv : (decodeDatagram s.cfg d).valid = (decodeDatagram s.cfg d').valid)
    (hs : (decodeDatagram s.cfg d).seqNum = (decodeDatagram s.cfg d').seqNum)
    (hp : (decodeDatagram s.cfg d).payload = (decodeDatagram s.cfg d').payload) :
    receiverDatagram d s = receiverDatagram d' s := by
  rw [receiverDatagram, receiverDatagram, receiveDatagram, receiveDatagram, hv, hs, hp]

/-- The sender reads of a good datagram its seqNum, of another one nothing. -/
theorem senderDatagram_congr {d d' : Bytes} {s : State} (hg : Expected.good s.cfg d ↔ Expected.good s.cfg d')
    (hs : Expected.good s.cfg d → (decodeDatagram s.cfg d).seqNum = (decodeDatagram s.cfg d').seqNum) :
    senderDatagram d s = senderDatagram d' s := by
  by_cases hw : s.S.state = .waitAck
  · by_cases hd : Expected.good s.cfg d
    · have hd' := hg.mp hd
      have hbit : (u16be d 10).getLsbD 0 = (u16be d' 10).getLsbD 0 := by
        rw [← decodeDatagram_seqNum hd.1, ← decodeDatagram_seqNum hd'.1, hs hd]
      by_cases hq : (u16be d 10).getLsbD 0 = s.S.curSeq
      · rw [senderDatagram_confirmed hw hd hq, senderDatagram_confirmed hw hd' (hbit.symm.trans hq)]
      · rw [senderDatagram_stale hw hd hq, senderDatagram_stale hw hd' (hbit ▸ hq)]
    · rw [senderDatagram_corrupt hw hd, senderDatagram_corrupt hw (mt hg.mpr hd)]
  · rw [senderDatagram_of_not_waiting hw, senderDatagram_of_not_waiting hw]

/-- Settles O22: an engine's next state is a function of what it reads of the datagram. -/
theorem unreadFieldsDoNotMatter : Obligations.UnreadFieldsDoNotMatter := by
  intro d d' s hs
  exact ⟨fun hv hp => congrArg Host.Outcome.next (receiverDatagram_congr hv hs hp),
    fun hg => congrArg Host.Outcome.next (senderDatagram_congr hg fun _ => hs)⟩

/-- Settles O23: no oversize datagram is valid, or good. -/
theorem oversizeDatagramsAreUnread : Obligations.OversizeDatagramsAreUnread := by
  intro d d' s hd hd'
  have hbad {b : Bytes} (hb : s.cfg.maxDgram < b.length) : ¬ Expected.good s.cfg b := fun hg => by
    obtain ⟨-, hmax, -⟩ := hg
    omega
  have hrecv {b : Bytes} (hb : s.cfg.maxDgram < b.length) : receiveDatagram b s = Expected.received s false false [] := by
    have hv := decodeDatagram_valid_eq_false_iff.mpr (.inr (.inl hb))
    rw [receiveDatagram_eq_received (acceptWaits_eq_false_of_invalid hv), hv]
    rfl
  have hsend : senderDatagram d s = senderDatagram d' s :=
    senderDatagram_congr (iff_of_false (hbad hd) (hbad hd')) fun hg => absurd hg (hbad hd)
  refine ⟨congrArg Host.Outcome.next ?_, congrArg Host.Outcome.next hsend⟩
  rw [receiverDatagram, receiverDatagram, hrecv hd, hrecv hd']

/-- Settles O27: the answer is the flag. -/
theorem transmitAnswersOkWithoutDirective : Obligations.TransmitAnswersOkWithoutDirective := by
  intro s d
  rw [transmit_sender_answer, transmit_receiver_answer]
  cases s.failS <;> cases s.failR <;> decide

/-! ## The sender's transactions (43_sender.md R210 to R216) -/

/-- The events of the record applied last are those it added, when earlier tags name earlier records (log 5). -/
theorem lastEvents_finish {s t : State} {es : List Event} (htags : ∀ e ∈ s.log, e.1 < s.recNo)
    (hlog : t.log = Expected.logged s es) (hrec : t.recNo = s.recNo) : lastEvents (finish t) = es := by
  have hold : s.log.filter (fun e => e.1 + 1 == s.recNo + 1) = [] :=
    List.filter_eq_nil_iff.mpr fun e he => by have := htags e he; simp; omega
  have hnew : (es.map fun e => (s.recNo, e)).filter (fun e => e.1 + 1 == s.recNo + 1) = es.map fun e => (s.recNo, e) :=
    List.filter_eq_self.mpr (by simp)
  rw [lastEvents, finish_log, finish_recNo, hlog, hrec, Expected.logged, List.filter_append, hold, hnew]
  simp

/-- What the record added is among the events of the record applied last. -/
theorem mem_lastEvents_finish {s t : State} {es : List Event} {e : Event} (hlog : t.log = Expected.logged s es)
    (hrec : t.recNo = s.recNo) (he : e ∈ es) : e ∈ lastEvents (finish t) := by
  rw [lastEvents, List.mem_map]
  exact ⟨(s.recNo, e), by simp [hlog, hrec, Expected.logged, he], rfl⟩

/-- A message accepted, with the answer `err`, as an entry to FATAL. -/
theorem sendMessage_failed {m : Bytes} {s : State} (hl : m.length ≤ s.cfg.maxPayload.val) (hf : s.failS = true) :
    sendMessage m s = Expected.senderFatal s
      { s.S with
        outBuf := encodePacket s.cfg m false s.S.curSeq
        outLen := BitVec.ofNat 14 (12 + m.length)
        retx := 0#16 }
      (encodePacket s.cfg m false s.S.curSeq) := by
  rw [sendMessage_err hl hf, encodePacket_length, List.append_assoc]
  rfl

/-- `Retransmit` with the answer `err`, as an entry to FATAL. -/
theorem retransmit_failed {s : State} (hf : s.failS = true) :
    retransmit s = Expected.senderFatal s { s.S with retx := satInc s.S.retx } s.S.outBuf := by
  rw [retransmit_err hf, List.append_assoc]
  rfl

/-- An accepted message emits its transmission, and perhaps the fatal event, but not `s_msg_err`. -/
theorem sendMessage_accepted_events {m : Bytes} {s : State} (hl : m.length ≤ s.cfg.maxPayload.val) :
    ∃ es, (sendMessage m s).log = Expected.logged s es ∧ (sendMessage m s).recNo = s.recNo ∧ .sMsgErr ∉ es := by
  cases hf : s.failS with
  | false => rw [sendMessage_ok hl hf]; exact ⟨[.sTx _], rfl, rfl, by simp⟩
  | true => rw [sendMessage_failed hl hf]; exact ⟨[.sTx _, .fatal .sender], rfl, rfl, by simp⟩

/-- Settles O28, by the branches of `sendMessage`. -/
theorem sendTransaction : Obligations.SendTransaction := by
  intro m s
  have hexec : exec (.sSend m) s = .next (execState (.sSend m) s) := exec_eq_next _ s
  refine ⟨rfl, fun hr hl => ?tooLong, fun hr hl hf => ?sent, fun hr hl hf => ?failed, fun hr => ?held, fun t h => ?pulse⟩
  case tooLong => rw [hexec, execState_sSend_of_ready hr, sendMessage_tooLong hl]; rfl
  case sent =>
    rw [hexec, execState_sSend_of_ready hr, sendMessage_ok hl hf, encodePacket_length]
    simp [Expected.logged, hf]
  case failed =>
    rw [hexec, execState_sSend_of_ready hr, sendMessage_failed hl hf]
  case held =>
    refine ⟨by simpa [sMsgReady] using hr, by simpa [held, sMsgReady] using hr, fun t h => ?_⟩
    rw [exec_next_iff.mp h, execState_sSend_of_not_ready hr]
  case pulse =>
    obtain rfl := exec_next_iff.mp h
    refine ⟨fun hr hl => ?_, fun htags hr hl => ?_⟩
    · rw [execState_sSend_of_ready hr, sendMessage_tooLong hl]
      exact List.elem_eq_true_of_mem (mem_lastEvents_finish (s := s) (es := [.sMsgErr]) rfl rfl (List.mem_singleton_self _))
    · obtain ⟨es, hlog, hrec, hes⟩ := sendMessage_accepted_events hl
      rw [execState_sSend_of_ready hr, sMsgErrPulse, lastEvents_finish htags hlog hrec]
      simpa using hes

/-- What does not confirm emits nothing. -/
theorem senderDatagram_unconfirmed {d : Bytes} {s : State}
    (h : ¬ (s.S.state = .waitAck ∧ Expected.good s.cfg d ∧ (u16be d 10).getLsbD 0 = s.S.curSeq)) :
    (senderDatagram d s).log = s.log ∧ (senderDatagram d s).recNo = s.recNo := by
  by_cases hw : s.S.state = .waitAck
  · by_cases hg : Expected.good s.cfg d
    · rw [senderDatagram_stale hw hg fun hs => h ⟨hw, hg, hs⟩]; exact ⟨rfl, rfl⟩
    · rw [senderDatagram_corrupt hw hg]; exact ⟨rfl, rfl⟩
  · rw [senderDatagram_of_not_waiting hw]; exact ⟨rfl, rfl⟩

/-- Settles O29, by the branches of a datagram at the sender. -/
theorem responseTransaction : Obligations.ResponseTransaction := by
  intro d s
  have hexec : exec (.sResp d) s = .next (senderDatagram d s) := exec_eq_next _ s
  refine ⟨rfl, fun hw hg hs => ?_, fun hw hg hs => ?_, fun hw hg => ?_, fun hw => ?_, fun t h => ⟨?high, ?low⟩⟩
  · rw [hexec, senderDatagram_confirmed hw hg hs]
  · rw [hexec, senderDatagram_stale hw hg hs]
  · rw [hexec, senderDatagram_corrupt hw hg]
  · rw [hexec, senderDatagram_of_not_waiting hw]
  case high =>
    rintro ⟨hw, hg, hs⟩
    obtain rfl := exec_next_iff.mp h
    rw [execState, senderDatagram_confirmed hw hg hs]
    exact List.elem_eq_true_of_mem (mem_lastEvents_finish (s := s) (es := [.sDone]) rfl rfl (List.mem_singleton_self _))
  case low =>
    intro htags hn
    obtain rfl := exec_next_iff.mp h
    obtain ⟨hlog, hrec⟩ := senderDatagram_unconfirmed hn
    rw [execState, sDonePulse, lastEvents_finish (es := []) htags (hlog.trans (List.append_nil _).symm) hrec]
    rfl

/-! ## Packets as datagrams (30_encoding.md R94) -/

theorem wireBytes_seqBit (p : Packet) (a q : Bool) : (u16be (wireBytes p a q) 10).getLsbD 0 = q := by
  rw [u16be_wireBytes]
  exact headerSeq_packHeader _ a q

/-- A packet has its header, so only its upper size limit and its checksum are tested. -/
theorem good_wireBytes_iff {c : Config} {p : Packet} {a q : Bool} :
    Expected.good c (wireBytes p a q) ↔
      12 + p.payload.length ≤ c.maxDgram ∧ (verify (wireBytes p a q) = true ∨ c.ackVerify = false) := by
  rw [Expected.good, wireBytes_length]
  exact and_iff_right (Nat.le_add_right _ _)

theorem not_good_wireBytes_iff {c : Config} {p : Packet} {a q : Bool} :
    ¬ Expected.good c (wireBytes p a q) ↔
      c.maxDgram < 12 + p.payload.length ∨ (verify (wireBytes p a q) = false ∧ c.ackVerify = true) := by
  rw [good_wireBytes_iff, not_and_or, not_or, Nat.not_le, Bool.not_eq_true, Bool.not_eq_false]

/-- An ack packet's class bit decides what a good one is to a waiting sender. -/
theorem senderDatagram_ackPacket {p : Packet} {q : Bool} {s : State} (hw : s.S.state = .waitAck)
    (hg : Expected.good s.cfg (wireBytes p true q)) :
    senderDatagram (wireBytes p true q) s =
      if s.S.curSeq = q then Expected.confirmed s else Expected.rearmed s .staleAck := by
  have hbit := wireBytes_seqBit p true q
  split
  next hq => exact senderDatagram_confirmed hw hg (hbit.trans hq.symm)
  next hq => exact senderDatagram_stale hw hg fun h => hq (h.symm.trans hbit)

/-- Settles O31: an ack packet is the response of its bytes. -/
theorem ackPacketsAtSender : Obligations.AckPacketsAtSender := by
  intro p s
  have h0 : exec (.ackSeq0 p) s = .next (senderDatagram (wireBytes p true false) s) := exec_eq_next _ s
  have h1 : exec (.ackSeq1 p) s = .next (senderDatagram (wireBytes p true true) s) := exec_eq_next _ s
  rw [h0, h1]
  refine ⟨fun hw => ?discarded, fun hw hl hv => ?good0, fun hw hl hv => ?good1, fun hw hbad => ?bad0, fun hw hbad => ?bad1⟩
  case discarded => rw [senderDatagram_of_not_waiting hw, senderDatagram_of_not_waiting hw]; exact ⟨rfl, rfl⟩
  case good0 | good1 => rw [senderDatagram_ackPacket hw (good_wireBytes_iff.mpr ⟨hl, hv⟩)]
  case bad0 | bad1 => rw [senderDatagram_corrupt hw (not_good_wireBytes_iff.mpr hbad)]

/-! ## The receiver's transactions -/

/-- What is not valid takes branch 1 (42_receiver.md R182). -/
theorem receiverDatagram_invalid {d : Bytes} {s : State} (hr : rRxReady s = true)
    (hv : (decodeDatagram s.cfg d).valid = false) : receiverDatagram d s = Expected.received s false false [] := by
  rw [receiverDatagram_of_ready hr, receiveDatagram_eq_received (acceptWaits_eq_false_of_invalid hv), hv]
  rfl

/-- What is valid takes branch 2 or 3 by its seqNum, with the bytes after the header as its payload (R183, R184). -/
theorem receiverDatagram_valid {d : Bytes} {s : State} (hr : rRxReady s = true)
    (hv : (decodeDatagram s.cfg d).valid = true)
    (hd : (u16be d 10).getLsbD 0 ≠ s.R.expSeq ∨ s.ports.rDlvReady = true) :
    receiverDatagram d s = Expected.received s true ((u16be d 10).getLsbD 0) (d.drop 12) := by
  have hseq := decodeDatagram_seqNum (c := s.cfg) (decodeDatagram_valid_iff.mp hv).1
  have hw : acceptWaits d s = false := by
    rw [← Bool.not_eq_true, acceptWaits_eq_true, hseq]
    rintro ⟨-, hs, hlow⟩
    exact hd.elim (fun hne => hne hs) fun hhigh => ne_true_of_eq_false hlow hhigh
  rw [receiverDatagram_of_ready hr, receiveDatagram_eq_received hw, hv, hseq, decodeDatagram_payload_of_valid hv]

/-- What is valid and in order waits for an application that does not take its payload (70_reset_and_hazards.md R311). -/
theorem receiverDatagram_untaken {d : Bytes} {s : State} (hr : rRxReady s = true)
    (hv : (decodeDatagram s.cfg d).valid = true) (hs : (u16be d 10).getLsbD 0 = s.R.expSeq)
    (hd : s.ports.rDlvReady = false) : receiverDatagram d s = { s with rBusy := some (d.drop 12) } := by
  have hseq := decodeDatagram_seqNum (c := s.cfg) (decodeDatagram_valid_iff.mp hv).1
  rw [receiverDatagram_waits hr (acceptWaits_eq_true.mpr ⟨hv, hseq.trans hs, hd⟩), decodeDatagram_payload_of_valid hv]

/-- Settles O36, by the datagram's validity, its seqNum and the application's readiness. -/
theorem receiveTransaction : Obligations.ReceiveTransaction := by
  intro d s
  have hexec : exec (.rDgram d) s = .next (receiverDatagram d s) := exec_eq_next _ s
  rw [hexec]
  refine ⟨rfl, fun hn => ?held, fun hf hb hbad => ?invalid, fun hf hb hmin hmax hsum hd => ?valid,
    fun hf hb hmin hmax hsum hs hd => ⟨?untaken, ?low, rfl⟩⟩
  case held =>
    have hr := rRxReady_eq_false.mpr hn
    refine ⟨hr, by rw [held, hr]; rfl, fun t h => ?_⟩
    rw [receiverDatagram_of_not_ready hr] at h
    injection h with h
    exact h.symm
  case invalid =>
    rw [receiverDatagram_invalid (rRxReady_eq_true.mpr ⟨hf, hb⟩) (decodeDatagram_valid_eq_false_iff.mpr hbad)]
  case valid =>
    rw [receiverDatagram_valid (rRxReady_eq_true.mpr ⟨hf, hb⟩) (decodeDatagram_valid_iff.mpr ⟨hmin, hmax, hsum⟩) hd]
  case untaken =>
    rw [receiverDatagram_untaken (rRxReady_eq_true.mpr ⟨hf, hb⟩) (decodeDatagram_valid_iff.mpr ⟨hmin, hmax, hsum⟩) hs hd]
  case low => exact rRxReady_eq_false.mpr (.inr nofun)

theorem valid_wireBytes_iff {c : Config} {p : Packet} {a q : Bool} :
    (decodeDatagram c (wireBytes p a q)).valid = true ↔
      12 + p.payload.length ≤ c.maxDgram ∧ verify (wireBytes p a q) = true := by
  rw [decodeDatagram_valid_iff, wireBytes_length]
  exact and_iff_right (Nat.le_add_right _ _)

theorem invalid_wireBytes_iff {c : Config} {p : Packet} {a q : Bool} :
    (decodeDatagram c (wireBytes p a q)).valid = false ↔
      c.maxDgram < 12 + p.payload.length ∨ verify (wireBytes p a q) = false := by
  rw [← Bool.not_eq_true, valid_wireBytes_iff, not_and_or, Nat.not_le, Bool.not_eq_true]

/-- A valid data packet waits, or takes its branch by its class bit. -/
theorem receiverDatagram_dataPacket {p : Packet} {q : Bool} {s : State} (hr : rRxReady s = true)
    (hv : (decodeDatagram s.cfg (wireBytes p false q)).valid = true) :
    receiverDatagram (wireBytes p false q) s =
      if s.R.expSeq = q ∧ s.ports.rDlvReady = false then { s with rBusy := some p.payload }
      else Expected.received s true q p.payload := by
  have hbit := wireBytes_seqBit p false q
  have hpayload : (wireBytes p false q).drop 12 = p.payload := rfl
  split
  next h =>
    obtain ⟨hs, hd⟩ := h
    rw [receiverDatagram_untaken hr hv (hbit.trans hs.symm) hd, hpayload]
  next h =>
    rw [receiverDatagram_valid hr hv ?_, hbit, hpayload]
    rw [hbit, ← Bool.not_eq_false s.ports.rDlvReady, ← not_and_or]
    exact fun ⟨hs, hd⟩ => h ⟨hs.symm, hd⟩

/-- Settles O37: a data packet is the datagram of its bytes. -/
theorem dataPacketsAtReceiver : Obligations.DataPacketsAtReceiver := by
  intro p s
  have h0 : exec (.dataSeq0 p) s = .next (receiverDatagram (wireBytes p false false) s) := exec_eq_next _ s
  have h1 : exec (.dataSeq1 p) s = .next (receiverDatagram (wireBytes p false true) s) := exec_eq_next _ s
  rw [h0, h1]
  refine ⟨fun hn => ?held, fun hf hb hl hv => ?valid0, fun hf hb hl hv => ?valid1, fun hf hb hbad => ?invalid0,
    fun hf hb hbad => ?invalid1⟩
  case held =>
    have hr := rRxReady_eq_false.mpr hn
    rw [receiverDatagram_of_not_ready hr, receiverDatagram_of_not_ready hr]
    exact ⟨rfl, rfl⟩
  case valid0 | valid1 =>
    rw [receiverDatagram_dataPacket (rRxReady_eq_true.mpr ⟨hf, hb⟩) (valid_wireBytes_iff.mpr ⟨hl, hv⟩)]
  case invalid0 | invalid1 =>
    rw [receiverDatagram_invalid (rRxReady_eq_true.mpr ⟨hf, hb⟩) (invalid_wireBytes_iff.mpr hbad)]

end Sys2Proof.Machine
end

section
/-! PROOFS. The kept packet (10_state.md R23), the timeout (43_sender.md R223), the acks (42_receiver.md R185, R190), reset
(70_reset_and_hazards.md R300), and the rounds of the protocol that these transactions make. -/

namespace Sys2Proof.Machine

/-! ## The kept packet -/

theorem senderDatagram_keepsPacket (d : Bytes) (s : State) :
    (senderDatagram d s).S.outBuf = s.S.outBuf ∧ (senderDatagram d s).S.outLen = s.S.outLen := by
  unfold senderDatagram
  split
  · rcases handleResponse_cases d s with ⟨_, _, e⟩ | ⟨_, e⟩ <;> rw [e] <;> exact ⟨rfl, rfl⟩
  · exact ⟨rfl, rfl⟩

theorem retransmit_keepsPacket (s : State) :
    (retransmit s).S.outBuf = s.S.outBuf ∧ (retransmit s).S.outLen = s.S.outLen := by
  cases h : s.failS
  · rw [retransmit_ok h]; exact ⟨rfl, rfl⟩
  · rw [retransmit_err h]; exact ⟨rfl, rfl⟩

theorem senderTick_keepsPacket (s : State) :
    (senderTick s).S.outBuf = s.S.outBuf ∧ (senderTick s).S.outLen = s.S.outLen := by
  rcases senderTick_cases s with ⟨_, e⟩ | ⟨_, _, _, e⟩ | ⟨hw, ha, ht, _⟩
  · rw [e]; exact ⟨rfl, rfl⟩
  · rw [e]; exact ⟨rfl, rfl⟩
  · rw [senderTick_timeout hw ha ht]; exact retransmit_keepsPacket s

/-- A message is refused, and the kept packet stays, or its packet is kept. -/
theorem sendMessage_packet (m : Bytes) (s : State) :
    ((sendMessage m s).S.outBuf = s.S.outBuf ∧ (sendMessage m s).S.outLen = s.S.outLen) ∨
    (m.length ≤ s.cfg.maxPayload.val ∧ (sendMessage m s).S.outBuf = encodePacket s.cfg m false s.S.curSeq) := by
  rcases Nat.lt_or_ge s.cfg.maxPayload.val m.length with hl | hl
  · rw [sendMessage_tooLong hl]; exact .inl ⟨rfl, rfl⟩
  · refine .inr ⟨hl, ?_⟩
    cases hf : s.failS
    · rw [sendMessage_ok hl hf]
    · rw [sendMessage_err hl hf]

/-- Settles O33, by what the instruction is to the sender. -/
theorem onlySendWritesOutBuf : Obligations.OnlySendWritesOutBuf := by
  intro i s t h hne
  obtain rfl := exec_next_iff.mp h
  rcases execState_senderCases i s with ⟨_, hS⟩ | ⟨d, _, e⟩ | ⟨m, hi, hr, e⟩ | ⟨_, e⟩ | ⟨hi, _⟩
  · simp [hS] at hne
  · rw [e] at hne
    obtain ⟨hbuf, hlen⟩ := senderDatagram_keepsPacket d s
    simp [hbuf, hlen] at hne
  · rw [e] at hne ⊢
    rcases sendMessage_packet m s with ⟨hbuf, hlen⟩ | ⟨hl, hbuf⟩
    · simp [hbuf, hlen] at hne
    · exact .inr ⟨m, hi, hr, hl, hbuf⟩
  · rw [e] at hne
    obtain ⟨hbuf, hlen⟩ := senderTick_keepsPacket s
    simp [hbuf, hlen] at hne
  · exact .inl hi

/-! ## Ticks in a row -/

/-- A record that is neither held nor waits is applied, and the others run from where it leaves the machine. -/
theorem runRecords_cons {i : Instr} {s : State} (hh : held i s = false) (hw : waits i s = false) (is : List Instr) :
    runRecords (i :: is) s = runRecords is (finish (execState i s)) := by
  rw [runRecords, exec_eq_next, hh, hw]
  rfl

theorem not_stuck_of_ended {i : Instr} {is : List Instr} {s t : State} (h : runRecords (i :: is) s = .ended t) :
    held i s = false ∧ waits i s = false := by
  refine Bool.or_eq_false_iff.mp (eq_false_of_ne_true fun hstuck => ?_)
  rw [runRecords, if_pos hstuck] at h
  cases h

theorem runRecords_append {is js : List Instr} {s t : State} (h : runRecords is s = .ended t) :
    runRecords (is ++ js) s = runRecords js t := by
  induction is generalizing s with
  | nil => cases h; rfl
  | cons i is ih =>
    obtain ⟨hh, hw⟩ := not_stuck_of_ended h
    rw [runRecords_cons hh hw] at h
    rw [List.cons_append, runRecords_cons hh hw, ih h]

theorem runRecords_tick (is : List Instr) (s : State) :
    runRecords (.sTick :: is) s = runRecords is (finish (senderTick s)) :=
  runRecords_cons rfl (by simp [waits, receiverBytes]) is

/-- The state after `k` ticks that only count. -/
def counted (k : Nat) (s : State) : State :=
  { s with S := { s.S with timerCnt := s.S.timerCnt + BitVec.ofNat 16 k }, recNo := s.recNo + k }

theorem finish_senderTick_counted {s : State} (hw : s.S.state = .waitAck) (ha : s.S.timerArmed = true)
    (hne : s.S.timerCnt + 1#16 ≠ s.cfg.timeoutTicks) : finish (senderTick s) = counted 1 s := by
  rw [senderTick_counted hw ha hne]; rfl

theorem counted_counted (k n : Nat) (s : State) : counted k (counted n s) = counted (n + k) s := by
  simp [counted, BitVec.add_assoc, BitVec.ofNat_add, Nat.add_assoc]

/-- Below the timeout a tick adds 1 to the count. -/
theorem runRecords_ticks_counted {k : Nat} {s : State} (hw : s.S.state = .waitAck) (ha : s.S.timerArmed = true)
    (hk : s.S.timerCnt.toNat + k < s.cfg.timeoutTicks.toNat) :
    runRecords (List.replicate k .sTick) s = .ended (counted k s) := by
  induction k generalizing s with
  | zero => simp [counted, runRecords]
  | succ k ih =>
    have hne : s.S.timerCnt + 1#16 ≠ s.cfg.timeoutTicks := by bv_omega
    have hcnt : (counted 1 s).S.timerCnt.toNat = s.S.timerCnt.toNat + 1 := by
      show (s.S.timerCnt + 1#16).toNat = _
      bv_omega
    have hlt : (counted 1 s).S.timerCnt.toNat + k < s.cfg.timeoutTicks.toNat := by omega
    rw [List.replicate_succ, runRecords_tick, finish_senderTick_counted hw ha hne, ih (s := counted 1 s) hw ha hlt, counted_counted,
      Nat.add_comm]

/-- Settles O35: all ticks but the last count, and the last one retransmits. -/
theorem retransmissionAtTimeoutTick : Obligations.RetransmissionAtTimeoutTick := by
  intro s hw ha h0 hf
  have hcount {k : Nat} (hk : k < s.cfg.timeoutTicks.toNat) :
      runRecords (List.replicate k .sTick) s = .ended (counted k s) := runRecords_ticks_counted hw ha (by simp [h0, hk])
  refine ⟨fun k hk => ⟨counted k s, hcount hk, ?_, hw, rfl⟩, fun hwf => ?_⟩
  · have := s.cfg.timeoutTicks.isLt
    simp [counted, h0]; omega
  · have hpos : 0 < s.cfg.timeoutTicks.toNat := timeoutTicks_pos_of_wf hwf
    obtain ⟨n, hn⟩ : ∃ n, s.cfg.timeoutTicks.toNat = n + 1 := ⟨s.cfg.timeoutTicks.toNat - 1, by omega⟩
    have hlast : (counted n s).S.timerCnt + 1#16 = (counted n s).cfg.timeoutTicks := by
      simp [counted, h0]
      bv_omega
    refine ⟨finish (retransmit (counted n s)), ?_, ?_⟩
    · rw [hn, List.replicate_succ', runRecords_append (hcount (by omega)), runRecords_tick,
        senderTick_timeout (s := counted n s) hw ha hlast]
      rfl
    · rw [retransmit_ok (s := counted n s) hf]
      exact ⟨rfl, hw, rfl, sentDatagrams_append _ _⟩

/-! ## Acks -/

theorem toReceiver_eq_receiverBytes (i : Instr) : Expected.toReceiver i = receiverBytes i := by
  cases i <;> rfl

/-- What an instruction that gives the receiver a datagram does. -/
theorem execState_of_receiverBytes {i : Instr} {d : Bytes} (h : receiverBytes i = some d) (s : State) :
    execState i s = receiverDatagram d s := by
  cases i with
  | dataSeq0 p | dataSeq1 p | rDgram d => cases h; rfl
  | _ => cases h

theorem held_of_receiverBytes {i : Instr} {d : Bytes} (h : receiverBytes i = some d) (s : State) :
    held i s = !rRxReady s := by
  cases i with
  | dataSeq0 p | dataSeq1 p | rDgram d => rfl
  | _ => cases h

theorem execState_held {i : Instr} {s : State} (h : held i s = true) : execState i s = s := by
  cases i with
  | dataSeq0 p | dataSeq1 p | rDgram d => exact receiverDatagram_of_not_ready (Bool.not_eq_true' _ ▸ h)
  | sSend m => exact execState_sSend_of_not_ready (by simpa [held, sMsgReady] using h)
  | _ => cases h

/-- An instruction that gives the receiver nothing spares it, but for reset. -/
theorem execState_spares_receiver {i : Instr} (hi : i ≠ .rst) (h : receiverBytes i = none) (s : State) :
    Spares .receiver s (execState i s) := by
  cases i with
  | dataSeq0 p | dataSeq1 p | rDgram d => cases h
  | ackSeq0 p | ackSeq1 p | sResp d => exact senderDatagram_spares _ s
  | sSend m =>
    by_cases hr : s.S.state = .ready
    · exact execState_sSend_of_ready hr ▸ sendMessage_spares m s
    · exact (execState_sSend_of_not_ready hr).symm ▸ .refl _ s
  | sTick => exact senderTick_spares s
  | cCsum _ | cVerify _ | cEncode _ _ _ | cDecode _ | hRead _ => exact emit_spares rfl _ s
  | sTxFail => exact .of_log_eq rfl rfl id
  | rTxFail => exact .of_log_eq rfl rfl fun _ => rfl
  | rst => exact absurd rfl hi

/-- Every branch that does not wait sends one ack. -/
theorem receiveDatagram_ackDatagrams {d : Bytes} {s : State} (h : acceptWaits d s = false) :
    ∃ x : Bool, ackDatagrams (receiveDatagram d s).log = ackDatagrams s.log ++ [encodePacket s.cfg [] true x] := by
  rcases receiveDatagram_cases d s with ⟨_, e⟩ | ⟨_, _, e⟩ | ⟨_, _, _, e⟩ | ⟨hw, _⟩
  · exact ⟨_, by rw [e, sendAck_ackDatagrams]; rfl⟩
  · exact ⟨_, by rw [e, sendAck_ackDatagrams]; rfl⟩
  · refine ⟨s.R.expSeq, ?_⟩
    rw [e, completeAccept, sendAck_ackDatagrams]
    simp [receiveAccept, ackDatagrams]
  · exact absurd hw (ne_true_of_eq_false h)

/-- Settles O40, by the branch of a datagram that is taken and completes; what else there is spares the receiver, or
keeps the observation. -/
theorem exactlyOneAckPerDatagram : Obligations.ExactlyOneAckPerDatagram := by
  intro i s t h
  obtain rfl := exec_next_iff.mp h
  rw [toReceiver_eq_receiverBytes]
  refine ⟨fun ⟨d, hd⟩ hh hw => ?_, fun hn => ?_⟩
  · have hr : rRxReady s = true := by simpa [held_of_receiverBytes hd] using hh
    have haw : acceptWaits d s = false := by simpa [waits, hr, hd] using hw
    obtain ⟨x, hx⟩ := receiveDatagram_ackDatagrams haw
    rw [execState_of_receiverBytes hd, receiverDatagram_of_ready hr]
    exact ⟨x, hx, encodePacket_length _ _ _ _⟩
  · rcases hn with hn | hh | hw
    · by_cases hi : i = .rst
      · subst hi; rfl
      · exact (execState_spares_receiver hi hn s).ackDatagrams_eq
    · rw [execState_held hh]
    · obtain ⟨d, _, _, _, e⟩ := execState_waits hw
      rw [e]

/-! ## The receiver's branches with the answer `ok` -/

/-- The accept branch with the answer `ok`. -/
theorem received_accept_ok {s : State} {p : Bytes} (hf : s.failR = false) :
    Expected.received s true s.R.expSeq p =
      { s with
        R := { s.R with
          lastAck := s.R.expSeq, expSeq := !s.R.expSeq, cntAccept := s.R.cntAccept + 1#32, last := .accepted }
        log := Expected.logged s [.rDlv p, .rTx (encodePacket s.cfg [] true s.R.expSeq)] } := by
  simp [Expected.received, Expected.acked, hf]

/-- The duplicate branch with the answer `ok`. -/
theorem received_duplicate_ok {s : State} {q : Bool} {p : Bytes} (hf : s.failR = false) (hq : q ≠ s.R.expSeq) :
    Expected.received s true q p =
      { s with
        R := { s.R with cntDup := s.R.cntDup + 1#32, last := .duplicate }
        log := Expected.logged s [.rTx (encodePacket s.cfg [] true q)] } := by
  simp [Expected.received, Expected.acked, hf, hq]

theorem ackDatagrams_logged (s : State) (es : List Event) :
    ackDatagrams (Expected.logged s es) = ackDatagrams s.log ++ ackDatagrams (es.map fun e => (s.recNo, e)) :=
  List.filterMap_append

theorem deliveries_logged (s : State) (es : List Event) :
    deliveries (Expected.logged s es) = deliveries s.log ++ deliveries (es.map fun e => (s.recNo, e)) :=
  List.filterMap_append

theorem sentDatagrams_logged (s : State) (es : List Event) :
    sentDatagrams (Expected.logged s es) = sentDatagrams s.log ++ sentDatagrams (es.map fun e => (s.recNo, e)) :=
  List.filterMap_append

/-- Settles O42: the first copy flips the expected seqNum, so that the second one is a duplicate. -/
theorem secondCopyDeliversNothing : Obligations.SecondCopyDeliversNothing := by
  intro d s t u hfatal hf hb hd hv hs h h'
  have hseq := decodeDatagram_seqNum (c := s.cfg) (decodeDatagram_valid_iff.mp hv).1
  have hbit := hseq.symm.trans hs
  have ht := exec_next_iff.mp h
  have hu := exec_next_iff.mp h'
  rw [execState, receiverDatagram_valid (rRxReady_eq_true.mpr ⟨hfatal, hb⟩) hv (.inr hd), hbit,
    received_accept_ok hf] at ht
  have hne : (u16be d 10).getLsbD 0 ≠ t.R.expSeq := by rw [hbit, ht]; exact Bool.self_ne_not _
  have htf : t.failR = false := by rw [ht]; exact hf
  have htr : rRxReady t = true := rRxReady_eq_true.mpr (by rw [ht]; exact ⟨hfatal, hb⟩)
  have htv : (decodeDatagram t.cfg d).valid = true := by rw [ht]; exact hv
  rw [execState, receiverDatagram_valid htr htv (.inl hne), received_duplicate_ok htf hne, hbit] at hu
  subst hu ht
  rw [decodeDatagram_payload_of_valid hv]
  refine ⟨deliveries_logged _ _, ?_, rfl, rfl, encodePacket s.cfg [] true s.R.expSeq, ?_⟩
  · rw [deliveries_logged]; exact List.append_nil _
  · rw [ackDatagrams_logged, ackDatagrams_logged, List.append_assoc]; rfl

/-! ## Reset -/

/-- Settles O45, field by field. -/
theorem resetTransaction : Obligations.ResetTransaction := by
  refine ⟨rfl, fun s => ⟨resetEngines s, exec_eq_next .rst s, rfl, rfl, rfl, rfl, rfl, rfl, rfl, ?buffer, rfl, rfl, rfl,
    rfl, rfl, rfl, rfl, rfl, rfl, rfl, rfl, rfl, rfl, rfl, rfl, rfl, fun htags => ?pulses⟩⟩
  case buffer => exact of_decide_eq_true (resetOutBuf_wf s.cfg s.draws)
  case pulses =>
    have hlast : lastEvents (finish (resetEngines s)) = [] :=
      lastEvents_finish htags (List.append_nil _).symm rfl
    rw [sDonePulse, sMsgErrPulse, hlast]
    exact ⟨rfl, rfl⟩

/-! ## Rounds -/

/-- The ack of the outstanding packet confirms it. -/
theorem senderDatagram_ack {s : State} {q : Bool} (hw : s.S.state = .waitAck) (hq : q = s.S.curSeq) :
    senderDatagram (encodePacket s.cfg [] true q) s = Expected.confirmed s := by
  have hgood : Expected.good s.cfg (encodePacket s.cfg [] true q) :=
    good_of_valid (datagramDecodeReversesEncode s.cfg [] true q (Nat.zero_le _)).1
  have hbit : (u16be (encodePacket s.cfg [] true q) 10).getLsbD 0 = q := wireBytes_seqBit _ true q
  exact senderDatagram_confirmed hw hgood (hbit.trans hq)

/-- The datagram `d` given to the receiver leaves its state but for what a branch with the answer `ok` writes, and gets
the ack for `q`. -/
structure Acked (s u : State) (q : Bool) (payload : List Bytes) : Prop where
  cfg : u.cfg = s.cfg
  sender : u.S = s.S
  recNo : u.recNo = s.recNo
  acks : ackDatagrams u.log = ackDatagrams s.log ++ [encodePacket s.cfg [] true q]
  delivered : deliveries u.log = deliveries s.log ++ payload

/-- A receiver in step accepts the packet of a message, with the answer `ok`. -/
theorem receiverDatagram_message {m : Bytes} {s : State} (hr : rRxReady s = true) (hf : s.failR = false)
    (hd : s.ports.rDlvReady = true) (hl : m.length ≤ s.cfg.maxPayload.val) {q : Bool} (hq : s.R.expSeq = q) :
    Acked s (receiverDatagram (encodePacket s.cfg m false q) s) q [m] ∧
      (receiverDatagram (encodePacket s.cfg m false q) s).R.expSeq = !q := by
  subst hq
  have hvalid := (datagramDecodeReversesEncode s.cfg m false s.R.expSeq hl).1
  have hbit : (u16be (encodePacket s.cfg m false s.R.expSeq) 10).getLsbD 0 = s.R.expSeq := wireBytes_seqBit _ false _
  rw [receiverDatagram_valid hr hvalid (.inr hd), hbit, encodePacket_payload, received_accept_ok hf]
  exact ⟨⟨rfl, rfl, rfl, ackDatagrams_logged _ _, deliveries_logged _ _⟩, rfl⟩

/-- A receiver that took the datagram before acks its copy, with the answer `ok`. -/
theorem receiverDatagram_copy {d : Bytes} {s : State} (hr : rRxReady s = true) (hf : s.failR = false)
    (hv : (decodeDatagram s.cfg d).valid = true) {q : Bool} (hd : (u16be d 10).getLsbD 0 = q) (hq : q ≠ s.R.expSeq) :
    Acked s (receiverDatagram d s) q [] ∧ (receiverDatagram d s).R.expSeq = s.R.expSeq := by
  subst hd
  rw [receiverDatagram_valid hr hv (.inl hq), received_duplicate_ok hf hq]
  exact ⟨⟨rfl, rfl, rfl, ackDatagrams_logged _ _, deliveries_logged _ _⟩, rfl⟩

/-- The ack of the outstanding packet, given back to the sender, closes the round. -/
theorem Acked.confirms {s u : State} {q : Bool} {payload : List Bytes} (h : Acked s u q payload)
    (hw : s.S.state = .waitAck) (hq : q = s.S.curSeq) :
    exec (.sResp (encodePacket s.cfg [] true q)) u = .next (Expected.confirmed u) ∧
      deliveries (Expected.confirmed u).log = deliveries s.log ++ payload ∧
      (s.recNo, Event.sDone) ∈ (Expected.confirmed u).log := by
  obtain ⟨hcfg, hS, hrec, -, hdlv⟩ := h
  refine ⟨?_, ?_, ?_⟩
  · rw [exec_eq_next, execState, ← hcfg, senderDatagram_ack (hS ▸ hw) (hS ▸ hq)]
  · rw [Expected.confirmed, deliveries_logged, hdlv]; exact List.append_nil _
  · rw [← hrec]; exact List.mem_append_right _ (List.mem_singleton_self _)

/-- Settles O58: the message is sent, its packet accepted, and its ack confirms it. -/
theorem losslessRoundDelivers : Obligations.LosslessRoundDelivers := by
  intro m s hr hfatal hstep hfS hfR hb hd hl
  have hsent := sendMessage_sentDatagrams hl
  have hspares := sendMessage_spares m s
  have hsend := sendMessage_ok hl hfS
  have ht : exec (.sSend m) s = .next (sendMessage m s) := by rw [exec_eq_next, execState_sSend_of_ready hr]
  generalize sendMessage m s = t at *
  have htr : rRxReady t = true := rRxReady_eq_true.mpr (by rw [hsend]; exact ⟨hfatal, hb⟩)
  obtain ⟨hacked, hexp⟩ := receiverDatagram_message (m := m) (s := t) (q := s.S.curSeq) htr (by rw [hsend]; exact hfR)
    (by rw [hsend]; exact hd) (by rw [hsend]; exact hl) (by rw [hsend]; exact hstep.symm)
  obtain ⟨hconfirm, hdlv, hdone⟩ := hacked.confirms (by rw [hsend]) (by rw [hsend])
  have hcfg : t.cfg = s.cfg := by rw [hsend]
  have hrec : t.recNo = s.recNo := by rw [hsend]
  have hS : t.S.curSeq = s.S.curSeq ∧ t.S.retx = 0#16 := by rw [hsend]; exact ⟨rfl, rfl⟩
  rw [hcfg] at hacked hexp hconfirm hdlv hdone
  refine ⟨t, _, _, _, _, ht, hsent, exec_eq_next _ t, ?acks, hconfirm, ?delivered, hrec ▸ hdone, rfl, ?flips, ?step, ?retx⟩
  case acks => rw [execState, hacked.acks, hspares.ackDatagrams_eq, hcfg]
  case delivered => rw [hdlv, hspares.deliveries_eq]
  case flips => rw [Expected.confirmed, hacked.sender, hS.1]
  case step => rw [Expected.confirmed, hacked.sender, hexp, hS.1]
  case retx => rw [Expected.confirmed, hacked.sender, hS.2]

/-- An outstanding packet is a valid datagram that carries the sequence bit (10_state.md R27). -/
theorem Sender.Inv.outstanding {c : Config} {x : Sender} (h : x.Inv c) (hw : x.state = .waitAck) :
    (decodeDatagram c x.outBuf).valid = true ∧ (u16be x.outBuf 10).getLsbD 0 = x.curSeq := by
  have hlen := h.waitLength hw
  have hmin := h.waitHeader hw
  have hmax : x.outBuf.length ≤ c.maxDgram := of_decide_eq_true h.bufferSize
  refine ⟨decodeDatagram_valid_iff.mpr ⟨by omega, hmax, h.waitVerifies hw⟩, ?_⟩
  rw [← h.waitSeq hw, u16be, word16, BitVec.getLsbD_append]
  rfl

/-- Settles O59: the kept packet is sent again, its copy is acked, and the ack confirms it. -/
theorem retransmissionRecoversLostAck : Obligations.RetransmissionRecoversLostAck := by
  intro s hI hw hfatal hne hfS hfR hb htime
  obtain ⟨hvalid, hbit⟩ := hI.sender.outstanding hw
  have hsent := (retransmit_addsUnconfirmed s).1.sentDatagrams_eq
  have hspares := retransmit_spares s
  have hsend := retransmit_ok hfS
  have ht : exec .sTick s = .next (retransmit s) := by
    rw [exec_eq_next, execState, senderTick_timeout hw (hI.sender.waitArmed hw) htime]
  generalize retransmit s = t at *
  have htr : rRxReady t = true := rRxReady_eq_true.mpr (by rw [hsend]; exact ⟨hfatal, hb⟩)
  obtain ⟨hacked, hexp⟩ := receiverDatagram_copy (d := s.S.outBuf) (s := t) (q := s.S.curSeq) htr
    (by rw [hsend]; exact hfR) (by rw [hsend]; exact hvalid) hbit (by rw [hsend]; exact hne)
  obtain ⟨hconfirm, hdlv, -⟩ := hacked.confirms (by rw [hsend]; exact hw) (by rw [hsend])
  have hcfg : t.cfg = s.cfg := by rw [hsend]
  have hS : t.S.curSeq = s.S.curSeq := by rw [hsend]
  have hR : t.R = s.R := hspares.engine
  refine ⟨t, _, _, _, ht, hsent, exec_eq_next _ t, ?acks, hconfirm, ?delivered, rfl, ?step⟩
  case acks => rw [execState, hacked.acks, hspares.ackDatagrams_eq, hcfg]
  case delivered => rw [hdlv, hspares.deliveries_eq]; exact List.append_nil _
  case step =>
    rw [Expected.confirmed, hacked.sender, hexp, hS, hR]
    exact (Bool.eq_not.mpr hne.symm).symm

end Sys2Proof.Machine
end

section
/-! PROOFS. What a transaction reads and writes: one engine, its transport flag and the parameters (60_exceptions.md R287,
20_memory.md R75). -/

namespace Sys2Proof.Machine

theorem logged_nil (s : State) : Expected.logged s [] = s.log := List.append_nil _

theorem logged_append (s : State) (es es' : List Event) :
    Expected.logged s (es ++ es') = Expected.logged s es ++ es'.map fun e => (s.recNo, e) := by
  simp [Expected.logged]

/-! ## Transactions of one engine -/

/-- `s` with the sender's part written, and events added. -/
def withSender (x : Sender) (b : Bool) (es : List Event) (s : State) : State :=
  { s with S := x, failS := b, log := Expected.logged s es }

/-- `s` with the receiver's part written, and events added. -/
def withReceiver (x : Receiver) (b : Bool) (busy : Option Bytes) (es : List Event) (s : State) : State :=
  { s with R := x, failR := b, rBusy := busy, log := Expected.logged s es }

/-- `f` writes the sender's part and adds events, and of the state it reads the parameters and the sender's part. -/
def ActsOnSender (f : State → State) : Prop :=
  ∀ s t : State, t.cfg = s.cfg → t.S = s.S → t.failS = s.failS →
    ∃ x b es, f s = withSender x b es s ∧ f t = withSender x b es t

/-- `f` writes the receiver's part and adds events, and of the state it reads the parameters, the receiver's part and the
level of `r_dlv`. -/
def ActsOnReceiver (f : State → State) : Prop :=
  ∀ s t : State, t.cfg = s.cfg → t.R = s.R → t.failR = s.failR → t.rBusy = s.rBusy →
    t.ports.rDlvReady = s.ports.rDlvReady →
    ∃ x b busy es, f s = withReceiver x b busy es s ∧ f t = withReceiver x b busy es t

theorem ActsOnSender.writes {f : State → State} (h : ActsOnSender f) (s : State) :
    ∃ x b es, f s = withSender x b es s := by
  obtain ⟨x, b, es, hs, -⟩ := h s s rfl rfl rfl
  exact ⟨x, b, es, hs⟩

theorem ActsOnReceiver.writes {f : State → State} (h : ActsOnReceiver f) (s : State) :
    ∃ x b busy es, f s = withReceiver x b busy es s := by
  obtain ⟨x, b, busy, es, hs, -⟩ := h s s rfl rfl rfl rfl rfl
  exact ⟨x, b, busy, es, hs⟩

theorem logged_eq_foldl (s : State) (es : List Event) :
    es.foldl (fun l e => l ++ [(s.recNo, e)]) s.log = Expected.logged s es := by
  rw [Expected.logged]
  generalize s.log = l
  induction es generalizing l with
  | nil => exact (List.append_nil l).symm
  | cons e es ih => rw [List.foldl_cons, ih, List.append_assoc]; rfl

/-- A branch that two states with the same sender's part take alike. -/
theorem senderBranch {s t u v : State} {x : Sender} {b : Bool} (es : List Event)
    (hu : u = { s with S := x, failS := b, log := es.foldl (fun l e => l ++ [(s.recNo, e)]) s.log })
    (hv : v = { t with S := x, failS := b, log := es.foldl (fun l e => l ++ [(t.recNo, e)]) t.log }) :
    ∃ x b es, u = withSender x b es s ∧ v = withSender x b es t := by
  rw [logged_eq_foldl] at hu hv
  exact ⟨x, b, es, hu, hv⟩

/-- A branch that two states with the same receiver's part take alike. -/
theorem receiverBranch {s t u v : State} {x : Receiver} {b : Bool} {busy : Option Bytes} (es : List Event)
    (hu : u = { s with R := x, failR := b, rBusy := busy, log := es.foldl (fun l e => l ++ [(s.recNo, e)]) s.log })
    (hv : v = { t with R := x, failR := b, rBusy := busy, log := es.foldl (fun l e => l ++ [(t.recNo, e)]) t.log }) :
    ∃ x b busy es, u = withReceiver x b busy es s ∧ v = withReceiver x b busy es t := by
  rw [logged_eq_foldl] at hu hv
  exact ⟨x, b, busy, es, hu, hv⟩

/-! ## The sender's transactions -/

theorem senderDatagram_acts (d : Bytes) : ActsOnSender (senderDatagram d) := by
  rintro s ⟨_, _, R, _, failR, rBusy, traceWaits, ports, trace, log, recNo, draws⟩ rfl rfl rfl
  by_cases hw : s.S.state = .waitAck
  · by_cases hg : Expected.good s.cfg d
    · by_cases hq : (u16be d 10).getLsbD 0 = s.S.curSeq
      · exact senderBranch [.sDone] (senderDatagram_confirmed hw hg hq) (senderDatagram_confirmed hw hg hq)
      · exact senderBranch [] (senderDatagram_stale hw hg hq) (senderDatagram_stale hw hg hq)
    · exact senderBranch [] (senderDatagram_corrupt hw hg) (senderDatagram_corrupt hw hg)
  · exact senderBranch [] (senderDatagram_of_not_waiting hw) (senderDatagram_of_not_waiting hw)

theorem execState_sSend_acts (m : Bytes) : ActsOnSender (execState (.sSend m)) := by
  rintro s ⟨_, _, R, _, failR, rBusy, traceWaits, ports, trace, log, recNo, draws⟩ rfl rfl rfl
  by_cases hr : s.S.state = .ready
  · rw [execState_sSend_of_ready hr, execState, if_pos hr]
    rcases Nat.lt_or_ge s.cfg.maxPayload.val m.length with hl | hl
    · exact senderBranch [.sMsgErr] (sendMessage_tooLong hl) (sendMessage_tooLong hl)
    · rcases Bool.eq_false_or_eq_true s.failS with hf | hf
      · exact senderBranch [.sTx _, .fatal .sender] (sendMessage_err hl hf) (sendMessage_err hl hf)
      · exact senderBranch [.sTx _] (sendMessage_ok hl hf) (sendMessage_ok hl hf)
  · exact senderBranch [] (execState_sSend_of_not_ready hr) (execState_sSend_of_not_ready hr)

theorem senderTick_eq_of_retransmit {s u : State} (hw : s.S.state = .waitAck) (ha : s.S.timerArmed = true)
    (ht : s.S.timerCnt + 1#16 = s.cfg.timeoutTicks) (h : retransmit s = u) : senderTick s = u :=
  (senderTick_timeout hw ha ht).trans h

theorem senderTick_acts : ActsOnSender senderTick := by
  rintro s ⟨_, _, R, _, failR, rBusy, traceWaits, ports, trace, log, recNo, draws⟩ rfl rfl rfl
  by_cases h : s.S.state = .waitAck ∧ s.S.timerArmed = true
  · obtain ⟨hw, ha⟩ := h
    by_cases ht : s.S.timerCnt + 1#16 = s.cfg.timeoutTicks
    · rcases Bool.eq_false_or_eq_true s.failS with hf | hf
      · exact senderBranch [.sTx _, .fatal .sender] (senderTick_eq_of_retransmit hw ha ht (retransmit_err hf))
          (senderTick_eq_of_retransmit hw ha ht (retransmit_err hf))
      · exact senderBranch [.sTx _] (senderTick_eq_of_retransmit hw ha ht (retransmit_ok hf))
          (senderTick_eq_of_retransmit hw ha ht (retransmit_ok hf))
    · exact senderBranch [] (senderTick_counted hw ha ht) (senderTick_counted hw ha ht)
  · exact senderBranch [] (senderTick_ignored h) (senderTick_ignored h)

/-! ## The receiver's transaction -/

theorem received_acts (v q : Bool) (p : Bytes) : ActsOnReceiver (Expected.received · v q p) := by
  rintro s ⟨_, S, _, failS, _, _, traceWaits, ports, trace, log, recNo, draws⟩ rfl rfl rfl rfl hd
  dsimp only [Expected.received]
  split_ifs <;> exact ⟨_, _, _, _, rfl, rfl⟩

theorem receiverDatagram_acts (d : Bytes) : ActsOnReceiver (receiverDatagram d) := by
  intro s t hc hR hf hb hd
  have hready : rRxReady t = rRxReady s := by rw [rRxReady, rRxReady, hR, hb]
  have hwaits : acceptWaits d t = acceptWaits d s := by rw [acceptWaits, acceptWaits, hc, hR, hd]
  cases hr : rRxReady s with
  | false =>
    exact receiverBranch [] (receiverDatagram_of_not_ready hr)
      ((receiverDatagram_of_not_ready (hready.trans hr)).trans (by rw [← hR, ← hf, ← hb]; rfl))
  | true =>
    cases hw : acceptWaits d s with
    | false =>
      rw [receiverDatagram_of_ready hr, receiverDatagram_of_ready (hready.trans hr), receiveDatagram_eq_received hw,
        receiveDatagram_eq_received (hwaits.trans hw), hc]
      exact received_acts _ _ _ s t hc hR hf hb hd
    | true =>
      rw [receiverDatagram_waits hr hw, receiverDatagram_waits (hready.trans hr) (hwaits.trans hw)]
      exact receiverBranch (x := s.R) (b := s.failR) [] rfl (by rw [← hR, ← hf, ← hc]; rfl)

/-! ## Every instruction -/

theorem respondCodec_acts {f : Config → Bytes} : ActsOnSender fun s => respondCodec (f s.cfg) s := by
  rintro s ⟨_, _, R, _, failR, rBusy, traceWaits, ports, trace, log, recNo, draws⟩ rfl rfl rfl
  exact senderBranch [.cRsp _] rfl rfl

/-- An instruction other than reset, a register read and the receiver's own acts on the sender's part at most. -/
theorem execState_acts {i : Instr} (hi : i ≠ .rst) :
    ActsOnSender (execState i) ∨ ActsOnReceiver (execState i) ∨ ∃ a, i = .hRead a := by
  cases i with
  | dataSeq0 p | dataSeq1 p | rDgram d => exact .inr (.inl (receiverDatagram_acts _))
  | ackSeq0 p | ackSeq1 p | sResp d => exact .inl (senderDatagram_acts _)
  | sSend m => exact .inl (execState_sSend_acts m)
  | sTick => exact .inl senderTick_acts
  | cCsum b => exact .inl (respondCodec_acts (f := fun _ => csumResponse b))
  | cVerify b => exact .inl (respondCodec_acts (f := fun _ => verifyResponse b))
  | cEncode a q p => exact .inl (respondCodec_acts (f := fun c => encodeResponse c a q p))
  | cDecode b => exact .inl (respondCodec_acts (f := fun c => decodeResponse c b))
  | hRead a => exact .inr (.inr ⟨a, rfl⟩)
  | sTxFail =>
    refine .inl fun s t hc hS hf => senderBranch (x := s.S) (b := true) [] rfl ?_
    rw [← hS]; rfl
  | rTxFail =>
    refine .inr (.inl fun s t hc hR hf hb hd => receiverBranch (x := s.R) (b := true) (busy := s.rBusy) [] rfl ?_)
    rw [← hR, ← hb]; rfl
  | rst => exact absurd rfl hi

/-- An instruction that gives the sender nothing, is no message, tick or directive to it and no reset, writes the
receiver's part at most. -/
theorem execState_spares_senderPart {i : Instr} (hi : i ≠ .rst) (htick : i ≠ .sTick) (hfail : i ≠ .sTxFail)
    (hsend : ∀ m, i ≠ .sSend m) (hn : Expected.toSender i = none) (s : State) :
    ∃ x b busy es, execState i s = withReceiver x b busy es s := by
  cases i with
  | dataSeq0 p | dataSeq1 p | rDgram d => exact (receiverDatagram_acts _).writes s
  | ackSeq0 p | ackSeq1 p | sResp d => cases hn
  | sSend m => exact absurd rfl (hsend m)
  | sTick => exact absurd rfl htick
  | cCsum _ | cVerify _ | cEncode _ _ _ | cDecode _ => exact ⟨s.R, s.failR, s.rBusy, [.cRsp _], rfl⟩
  | hRead a => exact ⟨s.R, s.failR, s.rBusy, [.hRdata _], rfl⟩
  | sTxFail => exact absurd rfl hfail
  | rTxFail => exact ⟨s.R, true, s.rBusy, [], by rw [withReceiver, logged_nil]; rfl⟩
  | rst => exact absurd rfl hi

/-- An instruction that gives the receiver nothing, is no directive to it and no reset, writes the sender's part at
most. -/
theorem execState_spares_receiverPart {i : Instr} (hi : i ≠ .rst) (hfail : i ≠ .rTxFail)
    (hn : receiverBytes i = none) (s : State) : ∃ x b es, execState i s = withSender x b es s := by
  cases i with
  | dataSeq0 p | dataSeq1 p | rDgram d => cases hn
  | ackSeq0 p | ackSeq1 p | sResp d => exact (senderDatagram_acts _).writes s
  | sSend m => exact (execState_sSend_acts m).writes s
  | sTick => exact senderTick_acts.writes s
  | cCsum _ | cVerify _ | cEncode _ _ _ | cDecode _ => exact ⟨s.S, s.failS, [.cRsp _], rfl⟩
  | hRead a => exact ⟨s.S, s.failS, [.hRdata _], rfl⟩
  | sTxFail => exact ⟨s.S, true, [], by rw [withSender, logged_nil]; rfl⟩
  | rTxFail => exact absurd rfl hfail
  | rst => exact absurd rfl hi

/-- Only the receiver's datagrams and reset write its transaction in progress. -/
theorem execState_rBusy {i : Instr} (hi : i ≠ .rst) (hn : receiverBytes i = none) (s : State) :
    (execState i s).rBusy = s.rBusy := by
  by_cases hfail : i = .rTxFail
  · subst hfail; rfl
  · obtain ⟨_, _, _, hs⟩ := execState_spares_receiverPart hi hfail hn s
    rw [hs]; rfl

/-- Settles O47: an instruction acts on one engine's part, or is a register read, or reset. -/
theorem enginesShareNoState : Obligations.EnginesShareNoState := by
  intro i s s' t t' h h' hc
  obtain rfl := exec_next_iff.mp h
  obtain rfl := exec_next_iff.mp h'
  refine ⟨fun hS hf hn => ?sender, fun hR hf hb hd => ?receiver, fun hi htick hfail hsend hn => ?spareSender,
    fun hi hfail hn => ?spareReceiver, fun hi hn => ?spareBusy⟩
  case sender =>
    by_cases hi : i = .rst
    · subst hi
      simp [execState, hc, hn]
    · rcases execState_acts hi with ha | ha | ⟨a, rfl⟩
      · obtain ⟨x, b, es, hs, ht⟩ := ha s s' hc.symm hS.symm hf.symm
        rw [hs, ht]
        exact ⟨rfl, rfl⟩
      · obtain ⟨_, _, _, _, hs⟩ := ha.writes s
        obtain ⟨_, _, _, _, ht⟩ := ha.writes s'
        rw [hs, ht]
        exact ⟨hS, hf⟩
      · exact ⟨hS, hf⟩
  case receiver =>
    by_cases hi : i = .rst
    · subst hi
      exact ⟨rfl, rfl, rfl⟩
    · rcases execState_acts hi with ha | ha | ⟨a, rfl⟩
      · obtain ⟨_, _, _, hs⟩ := ha.writes s
        obtain ⟨_, _, _, ht⟩ := ha.writes s'
        rw [hs, ht]
        exact ⟨hR, hf, hb⟩
      · obtain ⟨x, b, busy, es, hs, ht⟩ := ha s s' hc.symm hR.symm hf.symm hb.symm hd.symm
        rw [hs, ht]
        exact ⟨rfl, rfl, rfl⟩
      · exact ⟨hR, hf, hb⟩
  case spareSender =>
    obtain ⟨_, _, _, _, hs⟩ := execState_spares_senderPart hi htick hfail hsend hn s
    rw [hs]
    exact ⟨rfl, rfl⟩
  case spareReceiver =>
    obtain ⟨_, _, _, hs⟩ := execState_spares_receiverPart hi hfail (toReceiver_eq_receiverBytes i ▸ hn) s
    rw [hs]
    exact ⟨rfl, rfl⟩
  case spareBusy => exact execState_rBusy hi (toReceiver_eq_receiverBytes i ▸ hn) s

theorem logged_injective {s : State} {es es' : List Event} (h : Expected.logged s es = Expected.logged s es') :
    es = es' :=
  List.map_injective_iff.mpr (Prod.mk_right_injective s.recNo) (List.append_cancel_left h)

/-- What a branch writes is determined by the state after it. -/
theorem withSender_injective {x x' : Sender} {b b' : Bool} {es es' : List Event} {s : State}
    (h : withSender x b es s = withSender x' b' es' s) : x = x' ∧ b = b' ∧ es = es' :=
  ⟨congrArg State.S h, congrArg State.failS h, logged_injective (congrArg State.log h)⟩

theorem withReceiver_injective {x x' : Receiver} {b b' : Bool} {busy busy' : Option Bytes} {es es' : List Event}
    {s : State} (h : withReceiver x b busy es s = withReceiver x' b' busy' es' s) :
    x = x' ∧ b = b' ∧ busy = busy' ∧ es = es' :=
  ⟨congrArg State.R h, congrArg State.failR h, congrArg State.rBusy h, logged_injective (congrArg State.log h)⟩

/-- Where the sender's part is the same, what a transaction of the sender writes is the same. -/
theorem ActsOnSender.eq_withSender {f : State → State} (h : ActsOnSender f) {s t : State} {x : Sender} {b : Bool}
    {es : List Event} (hs : f s = withSender x b es s) (hc : t.cfg = s.cfg) (hS : t.S = s.S) (hf : t.failS = s.failS) :
    f t = withSender x b es t := by
  obtain ⟨x', b', es', hs', ht⟩ := h s t hc hS hf
  obtain ⟨rfl, rfl, rfl⟩ := withSender_injective (hs.symm.trans hs')
  exact ht

/-- Where the receiver's part is the same, what a transaction of the receiver writes is the same. -/
theorem ActsOnReceiver.eq_withReceiver {f : State → State} (h : ActsOnReceiver f) {s t : State} {x : Receiver} {b : Bool}
    {busy : Option Bytes} {es : List Event} (hs : f s = withReceiver x b busy es s) (hc : t.cfg = s.cfg) (hR : t.R = s.R)
    (hf : t.failR = s.failR) (hb : t.rBusy = s.rBusy) (hd : t.ports.rDlvReady = s.ports.rDlvReady) :
    f t = withReceiver x b busy es t := by
  obtain ⟨x', b', busy', es', hs', ht⟩ := h s t hc hR hf hb hd
  obtain ⟨rfl, rfl, rfl, rfl⟩ := withReceiver_injective (hs.symm.trans hs')
  exact ht

theorem filterMap_logged {β : Type} (f : Nat × Event → Option β) (s : State) (es : List Event) :
    (Expected.logged s es).filterMap f = s.log.filterMap f ++ (es.map fun e => (s.recNo, e)).filterMap f :=
  List.filterMap_append

/-- Events without a value between two others do not change the values read. -/
theorem filterMap_logged_swap {β : Type} {f : Nat × Event → Option β} {s : State} {es es' : List Event}
    (h : (Expected.logged s es').filterMap f = s.log.filterMap f) :
    (Expected.logged s (es ++ es')).filterMap f = (Expected.logged s (es' ++ es)).filterMap f := by
  rw [filterMap_logged] at h
  simp [filterMap_logged, List.append_right_eq_self.mp h]

/-- Settles O48: the two transactions write different parts, and their events are in either order. -/
theorem senderAndReceiverCommute : Obligations.SenderAndReceiverCommute := by
  intro d e s t u t' u' h1 h2 h1' h2'
  obtain ⟨x, b, es, hS⟩ := (senderDatagram_acts d).writes s
  obtain ⟨r, c, busy, es', hR⟩ := (receiverDatagram_acts e).writes s
  have hsends := senderDatagram_spares d s
  have hreceives := receiverDatagram_spares e s
  rw [hS] at hsends
  rw [hR] at hreceives
  have ht : t = withSender x b es s := (exec_next_iff.mp h1).trans hS
  have ht' : t' = withReceiver r c busy es' s := (exec_next_iff.mp h1').trans hR
  subst ht ht'
  have hu : u = withReceiver r c busy es' (withSender x b es s) :=
    (exec_next_iff.mp h2).trans ((receiverDatagram_acts e).eq_withReceiver hR rfl rfl rfl rfl rfl)
  have hu' : u' = withSender x b es (withReceiver r c busy es' s) :=
    (exec_next_iff.mp h2').trans ((senderDatagram_acts d).eq_withSender hS rfl rfl rfl)
  have hlog : u.log = Expected.logged s (es ++ es') := by rw [hu]; exact (logged_append s es es').symm
  have hlog' : u'.log = Expected.logged s (es' ++ es) := by rw [hu']; exact (logged_append s es' es).symm
  have hperm : (Expected.logged s (es ++ es')).Perm (Expected.logged s (es' ++ es)) :=
    (List.perm_append_comm.map _).append_left s.log
  rw [hlog, hlog']
  exact ⟨by rw [hu, hu']; rfl, by rw [hu, hu']; rfl, by rw [hu, hu']; rfl, by rw [hu, hu']; rfl, by rw [hu, hu']; rfl,
    filterMap_logged_swap hreceives.sentDatagrams_eq, (filterMap_logged_swap hsends.ackDatagrams_eq).symm,
    (filterMap_logged_swap hsends.deliveries_eq).symm, hperm⟩

end Sys2Proof.Machine
end

section
/-! PROOFS. The invariant of the whole machine (10_state.md R27, R31; 30_encoding.md R101; logs 5, 26): it holds after reset,
and every step keeps it. -/

namespace Sys2Proof.Machine

/-! ## The receiver's invariant -/

theorem Receiver.inv_of_not_fatal {x : Receiver} (ha : x.lastAck = !x.expSeq) (hf : x.fatal = false)
    (hl : x.last ≠ .fatal) : x.Inv where
  ackComplement := ha
  fatalCause := iff_of_false (ne_true_of_eq_false hf) hl

/-- The ack keeps the receiver's invariant, whatever the transport answers. -/
theorem receiverInv_acked {s : State} {r : Receiver} {es : List Event} {x : Bool} (h : r.Inv) :
    (Expected.acked s r es x).R.Inv := by
  dsimp only [Expected.acked]
  split
  · exact ⟨h.ackComplement, iff_of_true rfl rfl⟩
  · exact h

theorem receiverInv_received {s : State} (h : s.R.Inv) (hf : s.R.fatal = false) (v q : Bool) (p : Bytes) :
    (Expected.received s v q p).R.Inv := by
  unfold Expected.received
  split_ifs with hv hq
  · exact receiverInv_acked (Receiver.inv_of_not_fatal h.ackComplement hf nofun)
  · subst hq
    exact receiverInv_acked (Receiver.inv_of_not_fatal (Bool.not_not _).symm hf nofun)
  · exact receiverInv_acked (Receiver.inv_of_not_fatal h.ackComplement hf nofun)

theorem receiverInv_receiverDatagram {d : Bytes} {s : State} (h : s.R.Inv) : (receiverDatagram d s).R.Inv := by
  cases hr : rRxReady s with
  | false => rwa [receiverDatagram_of_not_ready hr]
  | true =>
    cases hw : acceptWaits d s with
    | false =>
      rw [receiverDatagram_of_ready hr, receiveDatagram_eq_received hw]
      exact receiverInv_received h (rRxReady_eq_true.mp hr).1 _ _ _
    | true => rwa [receiverDatagram_waits hr hw]

theorem receiverInv_execState (i : Instr) {s : State} (h : s.R.Inv) : (execState i s).R.Inv := by
  rcases execState_receiverCases i s with hR | ⟨d, _, e⟩ | ⟨_, e⟩
  · rwa [hR]
  · rw [e]; exact receiverInv_receiverDatagram h
  · rw [e]; exact receiverInv_reset

/-! ## What an instruction leaves alone -/

theorem received_writes (s : State) (v q : Bool) (p : Bytes) :
    ∃ x b es, Expected.received s v q p = withReceiver x b s.rBusy es s := by
  unfold Expected.received
  split_ifs <;> exact ⟨_, _, _, rfl⟩

/-- An instruction that completes leaves the transaction in progress, and with one in progress the receiver. -/
theorem execState_keepsBusy {i : Instr} {s : State} (hi : i ≠ .rst) (hw : waits i s = false) :
    (execState i s).rBusy = s.rBusy ∧ (s.rBusy ≠ none → (execState i s).R = s.R) := by
  cases hb : receiverBytes i with
  | none => exact ⟨execState_rBusy hi hb s, fun _ => (execState_spares_receiver hi hb s).engine⟩
  | some d =>
    rw [execState_of_receiverBytes hb]
    cases hr : rRxReady s with
    | false => rw [receiverDatagram_of_not_ready hr]; exact ⟨rfl, fun _ => rfl⟩
    | true =>
      have haw : acceptWaits d s = false := by simpa [waits, hr, hb] using hw
      have hnone := (rRxReady_eq_true.mp hr).2
      refine ⟨?_, fun hsome => absurd hnone hsome⟩
      obtain ⟨_, _, _, e⟩ := received_writes s _ _ _
      rw [receiverDatagram_of_ready hr, receiveDatagram_eq_received haw, e]
      rfl

/-- An instruction leaves the ports and the count of records. -/
theorem execState_environment (i : Instr) (s : State) :
    (execState i s).ports = s.ports ∧ (execState i s).recNo = s.recNo ∧ (execState i s).trace = s.trace ∧
      (i ≠ .rst → (execState i s).traceWaits = s.traceWaits) := by
  by_cases hi : i = .rst
  · subst hi; exact ⟨rfl, rfl, rfl, fun hi => absurd rfl hi⟩
  · rcases execState_acts hi with ha | ha | ⟨a, rfl⟩
    · obtain ⟨_, _, _, e⟩ := ha.writes s
      rw [e]; exact ⟨rfl, rfl, rfl, fun _ => rfl⟩
    · obtain ⟨_, _, _, _, e⟩ := ha.writes s
      rw [e]; exact ⟨rfl, rfl, rfl, fun _ => rfl⟩
    · exact ⟨rfl, rfl, rfl, fun _ => rfl⟩

/-! ## The machine's invariant -/

theorem busyAccepts_congr {s t : State} (hc : t.cfg = s.cfg) (hf : t.R.fatal = s.R.fatal) :
    busyAccepts t = busyAccepts s := by
  funext p
  rw [busyAccepts, busyAccepts, hc, hf]

/-- The payload of a valid datagram is within MAX_PAYLOAD. -/
theorem payload_length_le {c : Config} {d : Bytes} (h : (decodeDatagram c d).valid = true) :
    (decodeDatagram c d).payload.length ≤ c.maxPayload.val := by
  obtain ⟨-, hmax, -⟩ := decodeDatagram_valid_iff.mp h
  rw [decodeDatagram_payload_of_valid h, List.length_drop]
  exact Nat.sub_le_iff_le_add'.mpr hmax

/-- An instruction that completes keeps what a transaction in progress holds: it leaves that transaction and the
receiver, or resets them. -/
theorem busy_execState {i : Instr} {s : State} (h : s.rBusy.all (busyAccepts s) = true) (hw : waits i s = false) :
    (execState i s).rBusy.all (busyAccepts (execState i s)) = true := by
  by_cases hi : i = .rst
  · subst hi; rfl
  · obtain ⟨hbusy, hR⟩ := execState_keepsBusy hi hw
    rw [hbusy]
    by_cases hn : s.rBusy = none
    · rw [hn]; rfl
    · rwa [busyAccepts_congr (s := s) (execState_cfg i s) (congrArg Receiver.fatal (hR hn))]

/-- Events of the current record name a record that is applied, once the record is counted. -/
theorem tags_finish {s t : State} (h : ∀ e ∈ s.log, e.1 < s.recNo) (hg : Grows s t) (hrec : t.recNo = s.recNo) :
    ∀ e ∈ (finish t).log, e.1 < (finish t).recNo := by
  obtain ⟨es, hlog⟩ := hg
  rw [finish_log, finish_recNo, hlog, hrec]
  refine List.forall_mem_append.mpr ⟨fun e he => Nat.lt_succ_of_lt (h e he), fun e he => ?_⟩
  obtain ⟨_, _, rfl⟩ := List.mem_map.mp he
  exact Nat.lt_succ_self _

/-- An instruction that completes, and is counted, keeps the invariant. -/
theorem State.Inv.finish_execState {i : Instr} {s : State} (h : s.Inv) (hw : waits i s = false) :
    (finish (execState i s)).Inv := by
  obtain ⟨hports, hrec, -, hwait⟩ := execState_environment i s
  refine
    { config := by rw [finish_cfg, execState_cfg]; exact h.config
      sender := by rw [finish_cfg, finish_S, execState_cfg]; exact senderInv_execState i h.config h.sender
      receiver := receiverInv_execState i h.receiver
      offers := by rw [finish_ports, hports]; exact h.offers
      busy := busy_execState h.busy hw
      waiting := ?_
      tags := tags_finish h.tags (grows_execState i s) hrec }
  by_cases hi : i = .rst
  · subst hi; nofun
  · rw [finish_traceWaits, finish_rBusy, hwait hi, (execState_keepsBusy hi hw).1]
    exact h.waiting

/-- Taking an offer or a record changes neither engine. -/
theorem State.Inv.taken {s : State} (h : s.Inv) {p : Ports} (hp : p.wf = true) (b : Bytes) :
    State.Inv { s with ports := p, trace := b } :=
  { h with offers := hp }

/-- A datagram that waits only becomes the transaction in progress, whose payload is that of a valid datagram. -/
theorem State.Inv.execState_waits {i : Instr} {s : State} {p : Ports} {b : Bytes} {w : Bool} (h : s.Inv)
    (hp : p.wf = true) (hw : waits i { s with ports := p, trace := b, traceWaits := w } = true) :
    (execState i { s with ports := p, trace := b, traceWaits := w }).Inv := by
  obtain ⟨d, -, haw, hr, e⟩ := Machine.execState_waits hw
  obtain ⟨hv, -⟩ := acceptWaits_eq_true.mp haw
  obtain ⟨hfatal, -⟩ := rRxReady_eq_true.mp hr
  rw [e]
  exact
    { h with
      offers := hp
      busy := by
        rw [Option.all_some, busyAccepts, Bool.and_eq_true, Bool.not_eq_true']
        exact ⟨decide_eq_true (payload_length_le hv), hfatal⟩
      waiting := fun _ => nofun }

/-- A transaction that completes keeps the invariant: it was an accept branch outside FATAL. -/
theorem State.Inv.finish_completeAccept {s : State} (h : s.Inv) (q : Bytes) (hf : s.R.fatal = false) (hb : s.rBusy = none)
    (hw : s.traceWaits = false) : (finish (completeAccept q s)).Inv := by
  obtain ⟨hc, hS, -⟩ := completeAccept_frame q s
  obtain ⟨x, b, es, hwrites⟩ := received_writes s true s.R.expSeq q
  have hgrows := grows_completeAccept q s
  have hR : (completeAccept q s).R.Inv := by
    rw [completeAccept_eq_received]; exact receiverInv_received h.receiver hf _ _ _
  rw [completeAccept_eq_received, hwrites] at *
  exact
    { config := h.config
      sender := h.sender
      receiver := hR
      offers := h.offers
      busy := by rw [finish_rBusy, withReceiver, hb]; rfl
      waiting := by rw [finish_traceWaits, withReceiver, hw]; nofun
      tags := tags_finish h.tags hgrows rfl }

/-- Settles O56, by what a step can do. -/
theorem stepKeepsInvariant : Obligations.StepKeepsInvariant := by
  intro s t h hst
  rcases step_cases hst with rfl | ⟨q, hq, _, _, rfl⟩ | ⟨i, p, b, _, hp, hw, rfl⟩ | ⟨i, p, b, w, _, hp, hw, rfl⟩
  · exact h
  · have hbusy := h.busy
    rw [hq, Option.all_some, busyAccepts, Bool.and_eq_true, Bool.not_eq_true'] at hbusy
    exact State.Inv.finish_completeAccept (s := { s with rBusy := none, traceWaits := false })
      { h with busy := rfl, waiting := nofun } q hbusy.2 rfl rfl
  · exact (h.taken (hp h.offers) b).finish_execState hw
  · exact h.execState_waits (hp h.offers) hw

/-- Settles O54, by what a step can do. -/
theorem parametersNeverChange : Obligations.ParametersNeverChange := by
  intro s t hst
  rcases step_cases hst with rfl | ⟨q, _, _, _, rfl⟩ | ⟨i, p, b, _, _, _, rfl⟩ | ⟨i, p, b, w, _, _, _, rfl⟩
  · rfl
  · exact (completeAccept_frame q _).1
  · exact execState_cfg i _
  · exact execState_cfg i _

/-- Settles O55, field by field. -/
theorem resetMeetsInvariant : Obligations.ResetMeetsInvariant := by
  have hreset {c : Config} (hc : c.wf = true) : (State.resetWith c).Inv :=
    { config := hc
      sender := senderInv_reset c 0
      receiver := receiverInv_reset
      offers := rfl
      busy := rfl
      waiting := nofun
      tags := nofun }
  exact ⟨fun c => hreset, hreset (by decide)⟩

end Sys2Proof.Machine
end

section
/-! PROOFS. What a step takes (60_exceptions.md R280, 44_host.md R256): an equation for each port and for the trace, and what
each taken instruction is. -/

namespace Sys2Proof.Machine

/-! ## A step by what it finds -/

theorem step_of_run {s u : State} {i : Instr} (h : fetch s = .run i u) : step s = complete (exec i u) := by
  rw [step, h]

theorem step_of_start {s u : State} {i : Instr} (h : fetch s = .start i u) : step s = exec i u := by
  rw [step, h]

theorem step_of_deliver {s u : State} {p : Bytes} (h : fetch s = .deliver p u) :
    step s = .next (finish (completeAccept p u)) := by
  rw [step, h]

theorem step_of_stuck {s : State} (h : fetch s = .stuck) : step s = .next s := by
  rw [step, h]

theorem step_of_idle {s : State} (h : fetch s = .idle) : step s = .next s := by
  rw [step, h]

theorem step_of_refuse {s : State} {e : DecodeError} (h : fetch s = .refuse e) :
    step s = .refused (.spellsNoTransaction e) := by
  rw [step, h]

theorem complete_exec (i : Instr) (s : State) : complete (exec i s) = .next (finish (execState i s)) := by
  rw [exec_eq_next]; rfl

/-! ## Datagrams as instructions (30_encoding.md R94) -/

/-- A datagram on `s_rx` is an instruction that gives it to the sender. -/
theorem senderInstr_gives (d : Bytes) :
    Expected.toSender (senderInstr d) = some d ∧ (senderInstr d).wf = operandOk d := by
  unfold senderInstr
  split
  case h_1 p h | h_2 p h =>
    obtain ⟨hd, -, hwf⟩ := decodeWire_ok h
    exact ⟨congrArg some hd.symm, hwf⟩
  case h_3 => exact ⟨rfl, rfl⟩

/-- A datagram on `r_rx` is an instruction that gives it to the receiver. -/
theorem receiverInstr_gives (d : Bytes) :
    receiverBytes (receiverInstr d) = some d ∧ (receiverInstr d).wf = operandOk d := by
  unfold receiverInstr
  split
  case h_1 p h | h_2 p h =>
    obtain ⟨hd, -, hwf⟩ := decodeWire_ok h
    exact ⟨congrArg some hd.symm, hwf⟩
  case h_3 => exact ⟨rfl, rfl⟩

theorem execState_of_toSender {i : Instr} {d : Bytes} (h : Expected.toSender i = some d) (s : State) :
    execState i s = senderDatagram d s := by
  cases i with
  | ackSeq0 p | ackSeq1 p | sResp d => cases h; rfl
  | _ => cases h

theorem waits_of_receiverBytes {i : Instr} {d : Bytes} (h : receiverBytes i = some d) (s : State) :
    waits i s = waits (.rDgram d) s := by
  rw [waits, waits, h]
  rfl

theorem waits_of_no_datagram {i : Instr} (h : receiverBytes i = none) (s : State) : waits i s = false := by
  rw [waits, h]
  exact Bool.and_false _

/-- The codec's requests are within the limits when their bytes are. -/
theorem codecInstr_wf (q : CodecReq) : q.instr.wf = operandOk q.data := by
  unfold CodecReq.instr
  split <;> rfl

/-! ## The ports, in the order of their priority -/

theorem carried_of_all {o : Option Bytes} (h : o.all operandOk = true) : carried o = o := by
  cases o with
  | none => rfl
  | some d => exact carried_eq_some.mpr ⟨rfl, h⟩

theorem carriedRequest_of_all {o : Option CodecReq} (h : (o.all fun q => operandOk q.data) = true) :
    carriedRequest o = o := by
  cases o with
  | none => rfl
  | some q => exact Option.filter_some_pos h

theorem rDlvTaken_eq_none {s : State} (h : Expected.noDelivery s) : rDlvTaken s = none := by
  rw [rDlvTaken]
  rcases h with h | h <;> rw [h]
  · exact ite_self _
  · rfl

theorem offered_of_rst {s : State} (h : s.ports.rst = true) :
    offered s = some (.run .rst { s with ports := { s.ports with rst := false } }) := if_pos h

section Offers

variable {s : State} (hrst : s.ports.rst = false)
include hrst

theorem offered_of_delivery {p : Bytes} (hd : s.ports.rDlvReady = true) (hb : s.rBusy = some p) :
    offered s = some (.deliver p { s with rBusy := none, traceWaits := false }) := by
  simp [offered, hrst, rDlvTaken, hd, hb]

variable (hn : Expected.noDelivery s)
include hn

theorem offered_of_sRx {d : Bytes} (h : carried s.ports.sRx = some d) :
    offered s = some (.run (senderInstr d) { s with ports := { s.ports with sRx := none } }) := by
  simp only [offered, hrst, rDlvTaken_eq_none hn, h]; rfl

variable (hs : carried s.ports.sRx = none)
include hs

theorem offered_of_rRx {d : Bytes} (h : rRxTaken s = some d) :
    offered s = some (take (receiverInstr d) { s with ports := { s.ports with rRx := none } }) := by
  simp only [offered, hrst, rDlvTaken_eq_none hn, hs, h]; rfl

theorem offered_of_rRx_waits {d : Bytes} (h : rRxTaken s = some d) (hw : waits (receiverInstr d) s = true) :
    offered s = some (.start (receiverInstr d) { s with ports := { s.ports with rRx := none } }) :=
  (offered_of_rRx hrst hn hs h).trans (congrArg some (if_pos hw))

theorem offered_of_rRx_run {d : Bytes} (h : rRxTaken s = some d) (hw : waits (receiverInstr d) s = false) :
    offered s = some (.run (receiverInstr d) { s with ports := { s.ports with rRx := none } }) :=
  (offered_of_rRx hrst hn hs h).trans (congrArg some (if_neg (ne_true_of_eq_false hw)))

variable (hr : rRxTaken s = none)
include hr

theorem offered_of_tick (h : s.ports.tick = true) :
    offered s = some (.run .sTick { s with ports := { s.ports with tick := false } }) := by
  simp only [offered, hrst, rDlvTaken_eq_none hn, hs, hr, h]; rfl

variable (ht : s.ports.tick = false)
include ht

theorem offered_of_sMsg {m : Bytes} (h : sMsgTaken s = some m) :
    offered s = some (.run (.sSend m) { s with ports := { s.ports with sMsg := none } }) := by
  simp only [offered, hrst, rDlvTaken_eq_none hn, hs, hr, ht, h]; rfl

variable (hm : sMsgTaken s = none)
include hm

theorem offered_of_cReq {q : CodecReq} (h : carriedRequest s.ports.cReq = some q) :
    offered s = some (.run q.instr { s with ports := { s.ports with cReq := none } }) := by
  simp only [offered, hrst, rDlvTaken_eq_none hn, hs, hr, ht, hm, h]; rfl

variable (hc : carriedRequest s.ports.cReq = none)
include hc

theorem offered_of_hRd {a : BitVec 4} (h : s.ports.hRd = some a) :
    offered s = some (.run (.hRead a) { s with ports := { s.ports with hRd := none } }) := by
  simp only [offered, hrst, rDlvTaken_eq_none hn, hs, hr, ht, hm, hc, h]; rfl

theorem offered_of_none (h : s.ports.hRd = none) : offered s = none := by
  simp only [offered, hrst, rDlvTaken_eq_none hn, hs, hr, ht, hm, hc, h]; rfl

end Offers

theorem fetch_of_offered {s : State} {f : Fetched} (h : offered s = some f) : fetch s = f := by
  rw [fetch, h]

theorem fetch_of_not_offered {s : State} (h : offered s = none) : fetch s = fetchTrace s := by
  rw [fetch, h]

/-- With nothing on the ports a step takes from the trace. -/
theorem fetch_of_quiet {s : State} (hq : Expected.quiet s) (hn : Expected.noDelivery s) : fetch s = fetchTrace s := by
  obtain ⟨ready, hp⟩ := hq
  have hr : rRxTaken s = none := by rw [rRxTaken, hp]; exact ite_self _
  have hm : sMsgTaken s = none := by rw [sMsgTaken, hp]; exact ite_self _
  exact fetch_of_not_offered (offered_of_none (by rw [hp]; rfl) hn (by rw [hp]; rfl) hr (by rw [hp]; rfl) hm
    (by rw [hp]; rfl) (by rw [hp]; rfl))

/-! ## The trace -/

theorem fetchTrace_of_nil {s : State} (hw : s.traceWaits = false) (ht : s.trace = []) : fetchTrace s = .idle := by
  rw [fetchTrace, hw, ht]
  rfl

theorem fetchTrace_of_waiting {s : State} (hw : s.traceWaits = true) : fetchTrace s = .stuck := if_pos hw

theorem fetchTrace_of_error {s : State} {e : DecodeError} (hw : s.traceWaits = false) (hne : s.trace ≠ [])
    (hd : decode .trace s.trace = .error e) : fetchTrace s = .refuse e := by
  obtain ⟨x, b, ht⟩ := List.exists_cons_of_ne_nil hne
  rw [ht] at hd
  simp only [fetchTrace, hw, ht, hd]
  rfl

theorem decode_trace_nil : decode .trace [] = .error .truncatedRecord := rfl

section Record

variable {s : State} {i : Instr} {rest : Bytes} (hw : s.traceWaits = false) (hd : decode .trace s.trace = .ok (i, rest))
include hw hd

theorem fetchTrace_of_record : fetchTrace s = if held i s = true then .stuck
    else if waits i s = true then .start i { s with trace := rest, traceWaits := true }
    else .run i { s with trace := rest } := by
  have hne : s.trace ≠ [] := fun h => by rw [h, decode_trace_nil] at hd; cases hd
  obtain ⟨x, b, ht⟩ := List.exists_cons_of_ne_nil hne
  rw [ht] at hd
  simp only [fetchTrace, hw, ht, hd]
  rfl

theorem fetchTrace_of_held (hh : held i s = true) : fetchTrace s = .stuck := by
  rw [fetchTrace_of_record hw hd, if_pos hh]

variable (hh : held i s = false)
include hh

theorem fetchTrace_of_waits (h : waits i s = true) :
    fetchTrace s = .start i { s with trace := rest, traceWaits := true } := by
  rw [fetchTrace_of_record hw hd, if_neg (ne_true_of_eq_false hh), if_pos h]

theorem fetchTrace_of_run (h : waits i s = false) : fetchTrace s = .run i { s with trace := rest } := by
  rw [fetchTrace_of_record hw hd, if_neg (ne_true_of_eq_false hh), if_neg (ne_true_of_eq_false h)]

end Record

end Sys2Proof.Machine
end

section
/-! PROOFS. What a step does with the trace and with the ports (30_encoding.md R112, 60_exceptions.md R280, 44_host.md R256). -/

namespace Sys2Proof.Machine

/-! ## Records that are refused (30_encoding.md R112) -/

/-- A step that reaches bytes which spell no transaction is refused with their reason. -/
theorem step_refuses {s : State} {e : DecodeError} (hq : Expected.quiet s) (hn : Expected.noDelivery s)
    (hw : s.traceWaits = false) (hne : s.trace ≠ []) (hd : decodeRecord s.trace = .error e) :
    step s = .refused (.spellsNoTransaction e) :=
  step_of_refuse ((fetch_of_quiet hq hn).trans (fetchTrace_of_error hw hne hd))

/-- R112's ranges are what R99's codes leave. -/
theorem reservedCode_iff (code : Byte) : Expected.reservedCode code.toNat ↔ code ∉ recordCodes := by
  simp only [recordCodes, List.mem_cons, List.not_mem_nil, or_false, ← BitVec.toNat_inj, Expected.reservedCode,
    BitVec.toNat_ofNat]
  have := code.isLt
  omega

/-- A record cut off anywhere is refused as such. -/
theorem decodeRecord_truncated {i : Instr} {k : Nat} (hwf : i.wf = true) (hch : i.channel = .trace) (h0 : 0 < k)
    (hk : k < (encode i).length) : decodeRecord ((encode i).take k) = .error .truncatedRecord := by
  obtain ⟨k, rfl⟩ : ∃ n, k = n + 1 := ⟨k - 1, by omega⟩
  cases i with
  | dataSeq0 _ | dataSeq1 _ | ackSeq0 _ | ackSeq1 _ => cases hch
  | sTick | sTxFail | rTxFail | rst => exact absurd hk (by simp [encode])
  | sSend _ | sResp _ | rDgram _ | cCsum _ | cVerify _ | cDecode _ =>
    exact decodeT1_truncated hwf (Nat.lt_of_succ_lt_succ hk)
  | cEncode a q p =>
    cases k with
    | zero => rfl
    | succ k =>
      exact (decodeT2_flagsByte a q _).trans (decodeT1_truncated hwf (Nat.lt_of_succ_lt_succ (Nat.lt_of_succ_lt_succ hk)))
  | hRead a =>
    cases k with
    | zero => rfl
    | succ k => exact absurd hk (by simp [encode])

theorem decodeT2_error {b : Bytes} {c : Byte} : decodeT2 b ≠ .error (.reservedCode c) := by
  rcases b with _ | ⟨f, b⟩
  · nofun
  · rw [decodeT2_cons]
    split
    · nofun
    · exact fun h => nomatch decodeT1_error h

theorem decodeT3_error {b : Bytes} {c : Byte} : decodeT3 b ≠ .error (.reservedCode c) := by
  rcases b with _ | ⟨x, b⟩
  · nofun
  · rw [decodeT3_cons]
    split <;> nofun

/-- A code byte of R99 is not reserved. -/
theorem decodeRecord_of_listed {code : Byte} (h : code ∈ recordCodes) (b : Bytes) (c : Byte) :
    decodeRecord (code :: b) ≠ .error (.reservedCode c) := by
  cases recordFormat code b with
  | t0 i spelled channel wf read => rw [read]; nofun
  | t1 mk spelled channel wf read => rw [read]; exact fun he => nomatch decodeT1_error he
  | t2 code_eq read => rw [read]; exact decodeT2_error
  | t3 code_eq read => rw [read]; exact decodeT3_error
  | reserved not_listed read => exact absurd h not_listed

/-- The high bits of a flags byte are clear exactly below 4 (R109, T2). -/
theorem flags_reserved_iff (f : Byte) : f.extractLsb' 2 6 ≠ 0#6 ↔ 4 ≤ f.toNat := by
  have := f.isLt
  rw [ne_eq, ← BitVec.toNat_inj, BitVec.extractLsb'_toNat, Nat.shiftRight_eq_div_pow, BitVec.toNat_ofNat]
  omega

theorem address_reserved_iff (x : Byte) : x.extractLsb' 4 4 ≠ 0#4 ↔ 16 ≤ x.toNat := by
  have := x.isLt
  rw [ne_eq, ← BitVec.toNat_inj, BitVec.extractLsb'_toNat, Nat.shiftRight_eq_div_pow, BitVec.toNat_ofNat]
  omega

/-- Settles O4: the decoder's error is the step's reason. -/
theorem malformedRecordsAreRefused : Obligations.MalformedRecordsAreRefused := by
  intro s hq hn hw
  refine ⟨fun code rest ht hr => ?code, fun f rest ht hf => ?flags, fun x rest ht hx => ?address,
    fun i k hwf hch h0 hk ht => ?cut, fun code c rest hr => ?others⟩
  case code =>
    exact step_refuses hq hn hw (by simp [ht]) (by rw [ht]; exact decodeRecord_of_reserved ((reservedCode_iff code).mp hr) rest)
  case flags =>
    refine step_refuses hq hn hw (by simp [ht]) ?_
    rw [ht]
    exact (decodeT2_cons f rest).trans (if_pos ((flags_reserved_iff f).mpr hf))
  case address =>
    refine step_refuses hq hn hw (by simp [ht]) ?_
    rw [ht]
    exact (decodeT3_cons x rest).trans (if_pos ((address_reserved_iff x).mpr hx))
  case cut =>
    refine step_refuses hq hn hw ?_ (by rw [ht]; exact decodeRecord_truncated hwf hch h0 hk)
    rw [ht, ne_eq, List.take_eq_nil_iff]
    exact not_or.mpr ⟨by omega, encode_ne_nil i⟩
  case others => exact decodeRecord_of_listed (not_not.mp (mt (reservedCode_iff code).mpr hr)) rest c

/-! ## The step that runs a record or a packet -/

theorem senderInstr_encode {i : Instr} (hch : i.channel = .wire) (hto : Expected.toSender i ≠ none) :
    senderInstr (encode i) = i := by
  rw [senderInstr, decodeWire_encode hch]
  cases i with
  | ackSeq0 p | ackSeq1 p => rfl
  | sResp d => cases hch
  | _ => exact absurd rfl hto

theorem receiverInstr_encode {i : Instr} (hch : i.channel = .wire) (hto : Expected.toReceiver i ≠ none) :
    receiverInstr (encode i) = i := by
  rw [receiverInstr, decodeWire_encode hch]
  cases i with
  | dataSeq0 p | dataSeq1 p => rfl
  | rDgram d => cases hch
  | _ => exact absurd rfl hto

/-- A port carries the datagram of a well-formed packet. -/
theorem carried_encode {i : Instr} (hch : i.channel = .wire) (hwf : i.wf = true) :
    carried (some (encode i)) = some (encode i) := by
  obtain ⟨-, -, h⟩ := decodeWire_ok (decodeWire_encode hch)
  exact carried_eq_some.mpr ⟨rfl, h.symm.trans hwf⟩

theorem rRxReady_of_not_held {i : Instr} {s : State} (hto : Expected.toReceiver i ≠ none) (hh : held i s = false) :
    rRxReady s = true := by
  obtain ⟨d, hd⟩ := Option.ne_none_iff_exists'.mp hto
  rw [held_of_receiverBytes (toReceiver_eq_receiverBytes i ▸ hd)] at hh
  simpa using hh

/-- Settles O49: the record is what the trace decodes to, and the packet what its port's instruction is. -/
theorem stepRunsDecodedInstruction : Obligations.StepRunsDecodedInstruction := by
  intro i rest s t hwf hn
  refine ⟨fun hq hw hch ht hh => ?record, fun hch hto hrst hs h => ?toSender, fun hch hto hrst hs hr hh h => ?toReceiver⟩
  case record =>
    have hd : decode .trace s.trace = .ok (i, rest) := ht ▸ decodeRecord_encode hwf hch rest
    have hf := fetch_of_quiet hq hn
    refine ⟨fun hwaits h => ?_, fun hwaits h => ?_⟩
    · rw [step_of_run (hf.trans (fetchTrace_of_run hw hd hh hwaits)), h]; rfl
    · rw [step_of_start (hf.trans (fetchTrace_of_waits hw hd hh hwaits)), h]
  case toSender =>
    have hoff := offered_of_sRx hrst hn ((congrArg carried hs).trans (carried_encode hch hwf))
    rw [senderInstr_encode hch hto] at hoff
    rw [step_of_run (fetch_of_offered hoff), h]
    rfl
  case toReceiver =>
    have htaken : rRxTaken s = some (encode i) := by
      rw [rRxTaken, if_pos (rRxReady_of_not_held hto hh), hr, carried_encode hch hwf]
    have hnone : carried s.ports.sRx = none := by rw [hs]; rfl
    have hi := receiverInstr_encode hch hto
    split
    next hw =>
      have hoff := offered_of_rRx_waits hrst hn hnone htaken (hi.symm ▸ hw)
      rw [hi] at hoff
      rw [step_of_start (fetch_of_offered hoff), h]
    next hw =>
      have hoff := offered_of_rRx_run hrst hn hnone htaken (hi.symm ▸ eq_false_of_ne_true hw)
      rw [hi] at hoff
      rw [step_of_run (fetch_of_offered hoff), h]
      rfl

/-! ## Held records -/

/-- Which instructions are held (00_scope.md R10). -/
theorem held_iff (i : Instr) (s : State) : held i s = true ↔
    ((∃ m : Bytes, i = .sSend m) ∧ s.S.state ≠ .ready) ∨
    ((∃ d : Bytes, Expected.toReceiver i = some d) ∧ (s.R.fatal = true ∨ s.rBusy ≠ none)) := by
  rw [← rRxReady_eq_false]
  cases i with
  | sSend m => simp [held, sMsgReady, Expected.toReceiver]
  | dataSeq0 p | dataSeq1 p | rDgram d => simp [held, Expected.toReceiver]
  | _ => simp [held, Expected.toReceiver]

/-- Settles O50: what the trace holds is found by its decoding, and the ready signals are the tests of `held`. -/
theorem heldRecordsKeepTheState : Obligations.HeldRecordsKeepTheState := by
  intro s
  refine ⟨fun hq hn => ⟨fun h => ?idle, fun i rest hwf hch ht hh => ?stuck⟩,
    fun i h => by rw [exec_eq_next, execState_held h], fun i => held_iff i s, fun m => by simp [held],
    fun i d hd => ?datagram, fun i => ?waits, beq_iff_eq, beq_iff_eq, rfl, rRxReady_eq_true, rfl, rfl⟩
  case idle =>
    have hf := fetch_of_quiet hq hn
    cases hw : s.traceWaits with
    | true => exact step_of_stuck (hf.trans (fetchTrace_of_waiting hw))
    | false => exact step_of_idle (hf.trans (fetchTrace_of_nil hw (h.resolve_right (ne_true_of_eq_false hw))))
  case stuck =>
    have hf := fetch_of_quiet hq hn
    have hd : decode .trace s.trace = .ok (i, rest) := ht ▸ decodeRecord_encode hwf hch rest
    cases hw : s.traceWaits with
    | true => exact step_of_stuck (hf.trans (fetchTrace_of_waiting hw))
    | false => exact step_of_stuck (hf.trans (fetchTrace_of_held hw hd hh))
  case datagram => rw [held_of_receiverBytes (toReceiver_eq_receiverBytes i ▸ hd), Bool.not_eq_true']
  case waits =>
    rw [waits_eq_true, toReceiver_eq_receiverBytes]
    exact and_congr_right fun _ => exists_congr fun d => and_congr_right fun _ => acceptWaits_eq_true

/-! ## The order of the offers -/

/-- How the instruction `i` comes to be taken from `s`, which leaves `u`. -/
inductive Taken (s : State) : Instr → State → Prop where
  | rst (offer : s.ports.rst = true) : Taken s .rst { s with ports := { s.ports with rst := false } }
  | sRx (d : Bytes) (fits : operandOk d = true) :
    Taken s (senderInstr d) { s with ports := { s.ports with sRx := none } }
  | rRx (d : Bytes) (offer : s.ports.rRx = some d) (fits : operandOk d = true) :
    Taken s (receiverInstr d) { s with ports := { s.ports with rRx := none } }
  | tick : Taken s .sTick { s with ports := { s.ports with tick := false } }
  | sMsg (m : Bytes) (fits : operandOk m = true) : Taken s (.sSend m) { s with ports := { s.ports with sMsg := none } }
  | cReq (q : CodecReq) (fits : operandOk q.data = true) :
    Taken s q.instr { s with ports := { s.ports with cReq := none } }
  | hRd (a : BitVec 4) : Taken s (.hRead a) { s with ports := { s.ports with hRd := none } }
  | trace (i : Instr) (rest : Bytes) (w : Bool) (free : s.traceWaits = false)
    (record : decode .trace s.trace = .ok (i, rest)) (waits : waits i s = w) :
    Taken s i { s with trace := rest, traceWaits := w }

/-- The instruction that a step runs or begins. -/
def Fetched.instr : Fetched → Option (Instr × State)
  | .run i u => some (i, u)
  | .start i u => some (i, u)
  | _ => none

theorem take_instr (i : Instr) (s : State) : (take i s).instr = some (i, s) := by
  rw [take]
  split <;> rfl

theorem rRxTaken_eq_some {s : State} {d : Bytes} :
    rRxTaken s = some d ↔ rRxReady s = true ∧ s.ports.rRx = some d ∧ operandOk d = true := by
  rw [rRxTaken, Option.ite_none_right_eq_some, carried_eq_some]

theorem sMsgTaken_eq_some {s : State} {m : Bytes} :
    sMsgTaken s = some m ↔ sMsgReady s = true ∧ s.ports.sMsg = some m ∧ operandOk m = true := by
  rw [sMsgTaken, Option.ite_none_right_eq_some, carried_eq_some]

theorem offered_taken {s u : State} {i : Instr} {f : Fetched} (h : offered s = some f) (hf : f.instr = some (i, u)) :
    Taken s i u := by
  unfold offered at h
  split at h
  next hrst => cases h; cases hf; exact .rst hrst
  next =>
  split at h
  next => cases h; cases hf
  next =>
  split at h
  next d hd => cases h; cases hf; exact .sRx d (carried_eq_some.mp hd).2
  next =>
  split at h
  next d hd =>
    cases h
    rw [take_instr] at hf
    cases hf
    obtain ⟨-, hoffer, hfits⟩ := rRxTaken_eq_some.mp hd
    exact .rRx d hoffer hfits
  next =>
  split at h
  next => cases h; cases hf; exact .tick
  next =>
  split at h
  next m hm =>
    cases h; cases hf
    obtain ⟨-, -, hfits⟩ := sMsgTaken_eq_some.mp hm
    exact .sMsg m hfits
  next =>
  split at h
  next q hq =>
    cases h; cases hf
    exact .cReq q (Option.filter_eq_some_iff.mp hq).2
  next =>
  split at h
  next a _ => cases h; cases hf; exact .hRd a
  next => cases h

theorem fetchTrace_taken {s u : State} {i : Instr} (hf : (fetchTrace s).instr = some (i, u)) : Taken s i u := by
  rcases fetchTrace_cases s with e | e | ⟨r, e⟩ | ⟨hw, j, rest, hd, _, ⟨hwaits, e⟩ | ⟨hwaits, e⟩⟩ <;> rw [e] at hf <;>
    cases hf
  · have h := Taken.trace (s := s) i rest false hw hd hwaits
    rwa [← hw] at h
  · exact .trace i rest true hw hd hwaits

/-- Where what a step runs or begins comes from. -/
theorem fetch_taken {s u : State} {i : Instr} (hf : (fetch s).instr = some (i, u)) : Taken s i u := by
  cases ho : offered s with
  | some f => rw [fetch_of_offered ho] at hf; exact offered_taken ho hf
  | none => rw [fetch_of_not_offered ho] at hf; exact fetchTrace_taken hf

/-- What is taken is within the operand limits (30_encoding.md R101). -/
theorem Taken.wf {s u : State} {i : Instr} (h : Taken s i u) : i.wf = true := by
  cases h with
  | rst | tick | hRd => rfl
  | sRx d fits => exact (senderInstr_gives d).2.trans fits
  | rRx d offer fits => exact (receiverInstr_gives d).2.trans fits
  | sMsg m fits => exact fits
  | cReq q fits => exact (codecInstr_wf q).trans fits
  | trace i rest w free record waits =>
    obtain ⟨-, -, hwf⟩ := decodeRecord_ok record
    exact hwf

end Sys2Proof.Machine
end

section
/-! PROOFS. The order of the port offers (60_exceptions.md R280) and a payload that is not taken (70_reset_and_hazards.md
R311). -/

namespace Sys2Proof.Machine

/-! ## Offers -/

theorem exec_senderInstr (d : Bytes) (s : State) : exec (senderInstr d) s = exec (.sResp d) s := by
  rw [exec_eq_next, exec_eq_next, execState_of_toSender (senderInstr_gives d).1]
  rfl

theorem exec_receiverInstr (d : Bytes) (s : State) : exec (receiverInstr d) s = exec (.rDgram d) s := by
  rw [exec_eq_next, exec_eq_next, execState_of_receiverBytes (receiverInstr_gives d).1]
  rfl

theorem rRxTaken_eq_none {s : State} (h : rRxReady s = false ∨ s.ports.rRx = none) : rRxTaken s = none := by
  rw [rRxTaken]
  rcases h with h | h <;> rw [h]
  · rfl
  · exact ite_self _

theorem sMsgTaken_eq_none {s : State} (h : s.S.state ≠ .ready ∨ s.ports.sMsg = none) : sMsgTaken s = none := by
  rw [sMsgTaken, sMsgReady]
  rcases h with h | h
  · exact if_neg (by simpa using h)
  · rw [h]; exact ite_self _

/-- With offers within the limits, a port gives what is offered on it. -/
theorem carried_of_wf {p : Ports} (h : p.wf = true) : carried p.sRx = p.sRx ∧ carried p.rRx = p.rRx ∧
    carried p.sMsg = p.sMsg ∧ carriedRequest p.cReq = p.cReq := by
  simp only [Ports.wf, Bool.and_eq_true] at h
  obtain ⟨⟨⟨hs, hr⟩, hm⟩, hc⟩ := h
  exact ⟨carried_of_all hs, carried_of_all hr, carried_of_all hm, carriedRequest_of_all hc⟩

/-- Settles O51: a step finds the offer of the first port that can give one. -/
theorem portOffersByPriority : Obligations.PortOffersByPriority := by
  refine ⟨fun s u i h => Taken.wf (fetch_taken (s := s) (u := u) ?_), fun s d m q a hwf => ?_⟩
  · rcases h with h | h <;> rw [h] <;> rfl
  obtain ⟨hcs, hcr, hcm, hcc⟩ := carried_of_wf hwf
  dsimp only
  refine ⟨fun hrst => ?rst, fun hrst hd hb => ?delivery, fun ⟨hrst, hn⟩ hs => ?sRx,
    fun ⟨⟨hrst, hn⟩, hs⟩ hready hr hw => ?rRxRun, fun ⟨⟨hrst, hn⟩, hs⟩ hready hr hw => ?rRxWaits,
    fun ⟨⟨⟨hrst, hn⟩, hs⟩, hr⟩ ht => ?tick, fun ⟨⟨⟨⟨hrst, hn⟩, hs⟩, hr⟩, ht⟩ hstate hm => ?sMsg,
    fun ⟨⟨⟨⟨⟨hrst, hn⟩, hs⟩, hr⟩, ht⟩, hm⟩ hc => ?cReq, fun ⟨⟨⟨⟨⟨hrst, hn⟩, hs⟩, hr⟩, ht⟩, hm⟩ hc hh => ?hRd,
    fun ⟨⟨⟨⟨⟨hrst, hn⟩, hs⟩, hr⟩, ht⟩, hm⟩ hc hh => ?trace⟩
  case rst => exact step_of_run (fetch_of_offered (offered_of_rst hrst))
  case delivery =>
    rw [step_of_deliver (fetch_of_offered (offered_of_delivery hrst hd hb)), completeAccept_eq_received]
  case sRx =>
    rw [step_of_run (fetch_of_offered (offered_of_sRx hrst hn (hcs.trans hs))), exec_senderInstr]
  all_goals replace hcs := hcs.trans hs
  case rRxRun =>
    have htaken : rRxTaken s = some d := by rw [rRxTaken, if_pos hready, hcr, hr]
    have hwaits := (waits_of_receiverBytes (receiverInstr_gives d).1 s).trans hw
    rw [step_of_run (fetch_of_offered (offered_of_rRx_run hrst hn hcs htaken hwaits)), exec_receiverInstr]
  case rRxWaits =>
    have htaken : rRxTaken s = some d := by rw [rRxTaken, if_pos hready, hcr, hr]
    have hwaits := (waits_of_receiverBytes (receiverInstr_gives d).1 s).trans hw
    rw [step_of_start (fetch_of_offered (offered_of_rRx_waits hrst hn hcs htaken hwaits)), exec_receiverInstr]
  all_goals have hrRx := rRxTaken_eq_none hr
  case tick => exact step_of_run (fetch_of_offered (offered_of_tick hrst hn hcs hrRx ht))
  case sMsg =>
    have htaken : sMsgTaken s = some m := by rw [sMsgTaken, sMsgReady, if_pos (beq_iff_eq.mpr hstate), hcm, hm]
    exact step_of_run (fetch_of_offered (offered_of_sMsg hrst hn hcs hrRx ht htaken))
  all_goals
    have hsMsg := sMsgTaken_eq_none hm
    replace hcc := hcc.trans hc
  case cReq => exact step_of_run (fetch_of_offered (offered_of_cReq hrst hn hcs hrRx ht hsMsg hcc))
  case hRd => exact step_of_run (fetch_of_offered (offered_of_hRd hrst hn hcs hrRx ht hsMsg hcc hh))
  case trace => exact fetch_of_not_offered (offered_of_none hrst hn hcs hrRx ht hsMsg hcc hh)

/-! ## Steps in a row -/

theorem run_succ {s t : State} (h : step s = .next t) (k : Nat) :
    Host.Core.run Sys2Proof.core (k + 1) s = Host.Core.run Sys2Proof.core k t := by
  have hstep : Sys2Proof.core.step s = .next t := h
  simp only [Host.Core.run, hstep]

theorem run_fixed {s : State} (h : step s = .next s) (k : Nat) : Host.Core.run Sys2Proof.core k s = .next s := by
  induction k with
  | zero => rfl
  | succ k ih => rw [run_succ h, ih]

/-- Settles O52: the first step takes the ack, and the tick then meets a sender in READY. -/
theorem ackBeatsTimeoutTick : Obligations.AckBeatsTimeoutTick := by
  intro d s hn hrst hs hr htick hw ha hcnt hg hq
  have hfits : operandOk d = true := by
    obtain ⟨-, hmax, -⟩ := hg
    have hlt := s.cfg.maxPayload.isLt
    rw [Config.maxDgram, hdrLen] at hmax
    exact operandOk_iff.mpr (by omega)
  have hack : step s = .next (finish (Expected.confirmed { s with ports := { s.ports with sRx := none } })) := by
    rw [step_of_run (fetch_of_offered (offered_of_sRx hrst hn (carried_eq_some.mpr ⟨hs, hfits⟩))), exec_senderInstr,
      complete_exec, execState,
      senderDatagram_confirmed (s := { s with ports := { s.ports with sRx := none } }) hw hg hq]
  generalize ht : finish (Expected.confirmed { s with ports := { s.ports with sRx := none } }) = t at hack
  have hports : t.ports = { s.ports with sRx := none } := by rw [← ht]; rfl
  have hnt : Expected.noDelivery t := by rw [← ht]; exact hn
  have hready : t.S.state = .ready := by rw [← ht]; rfl
  have hlog : t.log = Expected.logged s [.sDone] := by rw [← ht]; rfl
  have hS : t.S.curSeq = (!s.S.curSeq) ∧ t.S.retx = s.S.retx := by rw [← ht]; exact ⟨rfl, rfl⟩
  have htaken : rRxTaken t = none := rRxTaken_eq_none (.inr (by rw [hports]; exact hr))
  have htickStep : step t = .next (finish { t with ports := { t.ports with tick := false } }) := by
    rw [step_of_run (fetch_of_offered (offered_of_tick (by rw [hports]; exact hrst) hnt (by rw [hports]; rfl) htaken
      (by rw [hports]; exact htick))), complete_exec, execState, senderTick_ignored (by simp [hready])]
  refine ⟨_, (run_succ hack 1).trans (run_succ htickStep 0), hready, hS.1, hS.2, ?_, rfl⟩
  rw [finish_log]
  exact (congrArg sentDatagrams hlog).trans ((sentDatagrams_logged _ _).trans (List.append_nil _))

/-! ## A payload that is not taken -/

theorem receiverBytes_of_toSender {i : Instr} {d : Bytes} (h : Expected.toSender i = some d) : receiverBytes i = none := by
  cases i with
  | ackSeq0 p | ackSeq1 p | sResp d => rfl
  | _ => cases h

theorem receiverBytes_codec (q : CodecReq) : receiverBytes q.instr = none := by
  unfold CodecReq.instr
  split <;> rfl

/-- Of what is taken, only an offered datagram and an `R_DGRAM` record give the receiver one. -/
theorem Taken.datagram {s u : State} {i : Instr} {d : Bytes} (h : Taken s i u) (hd : receiverBytes i = some d) :
    (s.ports.rRx = some d ∧ u = { s with ports := { s.ports with rRx := none } }) ∨
    ∃ rest, decode .trace s.trace = .ok (.rDgram d, rest) ∧ u = { s with trace := rest, traceWaits := waits i s } := by
  cases h with
  | rst | tick | sMsg | hRd => cases hd
  | sRx d' fits => rw [receiverBytes_of_toSender (senderInstr_gives d').1] at hd; cases hd
  | rRx d' offer fits =>
    cases (receiverInstr_gives d').1.symm.trans hd
    exact .inl ⟨offer, rfl⟩
  | cReq q fits => rw [receiverBytes_codec] at hd; cases hd
  | trace i rest w free record waits =>
    subst waits
    obtain ⟨-, hch, -⟩ := decodeRecord_ok record
    cases i with
    | rDgram d' => cases hd; exact .inr ⟨rest, record, rfl⟩
    | dataSeq0 p | dataSeq1 p => cases hch
    | _ => cases hd

/-- Reset comes from its port or is the next record of a trace that does not wait. -/
theorem Taken.reset {s u : State} (h : Taken s .rst u) :
    s.ports.rst = true ∨ (s.traceWaits = false ∧ s.trace.head? = some 0xFF#8) := by
  generalize hi : Instr.rst = i at h
  cases h with
  | rst offer => exact .inl offer
  | sRx d fits => exact nomatch hi ▸ (senderInstr_gives d).1
  | rRx d offer fits => exact nomatch hi ▸ (receiverInstr_gives d).1
  | cReq q fits =>
    unfold CodecReq.instr at hi
    split at hi <;> cases hi
  | trace i rest w free record waits =>
    subst hi
    exact .inr ⟨free, by rw [(decodeRecord_ok record).1]; rfl⟩
  | tick | sMsg | hRd => cases hi

/-- While a record holds the trace, nothing is taken from it. -/
theorem Taken.trace_eq {s u : State} {i : Instr} (h : Taken s i u) (hw : s.traceWaits = true) : u.trace = s.trace := by
  cases h with
  | trace i rest w free record waits => exact absurd hw (ne_true_of_eq_false free)
  | _ => rfl

/-- A receiver that takes no datagram is spared by every instruction but reset. -/
theorem execState_spares_of_not_ready {i : Instr} {s : State} (hi : i ≠ .rst) (hr : rRxReady s = false) :
    Spares .receiver s (execState i s) := by
  cases hb : receiverBytes i with
  | none => exact execState_spares_receiver hi hb s
  | some d => rw [execState_of_receiverBytes hb, receiverDatagram_of_not_ready hr]; exact .refl _ s

/-- What is taken is gone from the ports or the trace; the engines, the observation and the level of `r_dlv` stay. -/
theorem Taken.frame {s u : State} {i : Instr} (h : Taken s i u) :
    u = { s with ports := u.ports, trace := u.trace, traceWaits := u.traceWaits } ∧
      u.ports.rDlvReady = s.ports.rDlvReady := by
  cases h <;> exact ⟨rfl, rfl⟩

/-- The inversion of `step`, with the origin of what it takes. -/
theorem step_taken {s t : State} (h : step s = .next t) :
    t = s ∨
    (∃ q : Bytes, s.rBusy = some q ∧ s.ports.rDlvReady = true) ∨
    (∃ i u, Taken s i u ∧ waits i u = false ∧ t = finish (execState i u)) ∨
    (∃ i u, Taken s i u ∧ waits i u = true ∧ t = execState i u) := by
  rcases step_cases h with rfl | ⟨q, hb, _, hd, _⟩ | ⟨i, p, b, hf, _, hw, rfl⟩ | ⟨i, p, b, w, hf, _, hw, rfl⟩
  · exact .inl rfl
  · exact .inr (.inl ⟨q, hb, hd⟩)
  · exact .inr (.inr (.inl ⟨i, _, fetch_taken (by rw [hf]; rfl), hw, rfl⟩))
  · exact .inr (.inr (.inr ⟨i, _, fetch_taken (by rw [hf]; rfl), hw, rfl⟩))

/-- A transaction that waits begins with an offered datagram or an `R_DGRAM` record. -/
theorem step_begins {s t : State} {p : Bytes} (h : step s = .next t) (hb : s.rBusy = none) (ht : t.rBusy = some p) :
    ∃ d, acceptWaits d s = true ∧ rRxReady s = true ∧ (decodeDatagram s.cfg d).payload = p ∧
      ((s.ports.rRx = some d ∧ t = { s with rBusy := some p, ports := { s.ports with rRx := none } }) ∨
        ∃ rest, decode .trace s.trace = .ok (.rDgram d, rest) ∧
          t = { s with rBusy := some p, trace := rest, traceWaits := true }) := by
  rcases step_taken h with rfl | ⟨q, hq, _⟩ | ⟨i, u, htaken, hw, rfl⟩ | ⟨i, u, htaken, hw, rfl⟩
  · simp [hb] at ht
  · simp [hb] at hq
  · have hu : u.rBusy = none := by rw [htaken.frame.1]; exact hb
    by_cases hi : i = .rst
    · subst hi; cases ht
    · rw [finish_rBusy, (execState_keepsBusy hi hw).1, hu] at ht
      cases ht
  · obtain ⟨d, hd, haw, hr, e⟩ := execState_waits hw
    rw [e] at ht ⊢
    rcases htaken.datagram hd with ⟨hoffer, rfl⟩ | ⟨rest, hrecord, rfl⟩
    · cases ht
      exact ⟨d, haw, hr, rfl, .inl ⟨hoffer, rfl⟩⟩
    · cases ht
      have hws : waits i s = true := hw
      rw [hws]
      exact ⟨d, haw, hr, rfl, .inr ⟨rest, hrecord, rfl⟩⟩

/-- While the payload is untaken, a step spares the receiver and leaves the transaction in progress and a trace that
waits; or it resets. -/
theorem step_while_untaken {s t : State} {p : Bytes} (h : step s = .next t) (hb : s.rBusy = some p)
    (hd : s.ports.rDlvReady = false) :
    (Spares .receiver s t ∧ t.rBusy = some p ∧ (s.traceWaits = true → t.trace = s.trace)) ∨
    ((s.ports.rst = true ∨ (s.traceWaits = false ∧ s.trace.head? = some 0xFF#8)) ∧ t.rBusy = none ∧
      t.R = Receiver.reset ∧ t.log = s.log) := by
  have hr : rRxReady s = false := rRxReady_eq_false.mpr (.inr (by simp [hb]))
  rcases step_taken h with rfl | ⟨_, _, hd'⟩ | ⟨i, u, htaken, hw, rfl⟩ | ⟨i, u, htaken, hw, rfl⟩
  · exact .inl ⟨.refl _ t, hb, fun _ => rfl⟩
  · exact absurd hd' (ne_true_of_eq_false hd)
  · obtain ⟨hu, -⟩ := htaken.frame
    by_cases hi : i = .rst
    · subst hi
      exact .inr ⟨htaken.reset, rfl, rfl, by rw [hu]; rfl⟩
    · have hru : rRxReady u = false := by rw [hu]; exact hr
      have htake : Spares .receiver s u := .of_log_eq (by rw [hu]) (by rw [hu]; rfl) (by rw [hu]; exact id)
      have hcount : Spares .receiver (execState i u) (finish (execState i u)) := .of_log_eq rfl rfl id
      refine .inl ⟨(htake.trans (execState_spares_of_not_ready hi hru)).trans hcount, ?_, fun hwait => ?_⟩
      · rw [finish_rBusy, (execState_keepsBusy hi hw).1, hu]; exact hb
      · obtain ⟨-, -, htrace, -⟩ := execState_environment i u
        rw [finish_trace, htrace]
        exact htaken.trace_eq hwait
  · obtain ⟨d, _, _, hru, _⟩ := execState_waits hw
    rw [htaken.frame.1] at hru
    exact absurd hru (ne_true_of_eq_false hr)

/-- A completed accept branch delivers the payload and then sends the ack (42_receiver.md R184). -/
theorem completeAccept_eq_acked (p : Bytes) (s : State) :
    completeAccept p s = Expected.acked s
      { s.R with
        lastAck := s.R.expSeq
        expSeq := !s.R.expSeq
        cntAccept := s.R.cntAccept + 1#32
        last := .accepted } [.rDlv p] s.R.expSeq := by
  rw [completeAccept_eq_received, Expected.received, if_neg nofun, if_pos rfl]

/-- Settles O60, by what a step takes. -/
theorem untakenPayloadHoldsReceiver : Obligations.UntakenPayloadHoldsReceiver := by
  intro s t h
  refine ⟨fun p hb ht => ?begins, fun p hb hd => ?untaken, fun p hb hd hrst => ?taken⟩
  case begins =>
    obtain ⟨d, haw, hr, hp, horigin⟩ := step_begins h hb ht
    obtain ⟨hv, hs, hd⟩ := acceptWaits_eq_true.mp haw
    rcases horigin with ⟨hoffer, rfl⟩ | ⟨rest, hrecord, rfl⟩
    · exact ⟨⟨d, hv, hs, hp, .inl ⟨hoffer, rfl, rfl⟩⟩, hd, hr, rfl, rfl, rfl⟩
    · exact ⟨⟨d, hv, hs, hp, .inr ⟨hrecord, rfl, rfl⟩⟩, hd, hr, rfl, rfl, rfl⟩
  case untaken =>
    refine ⟨rRxReady_eq_false.mpr (.inr (by simp [hb])), hb, ?_⟩
    rcases step_while_untaken h hb hd with ⟨hspares, hbusy, htrace⟩ | ⟨hreset, hbusy, hR, hlog⟩
    · exact ⟨hspares.ackDatagrams_eq, hspares.deliveries_eq, .inl ⟨hbusy, hspares.engine, htrace⟩⟩
    · rw [hlog]
      exact ⟨rfl, rfl, .inr ⟨hreset, hbusy, hR⟩⟩
  case taken =>
    rw [step_of_deliver (fetch_of_offered (offered_of_delivery hrst hd hb))] at h
    cases h
    obtain ⟨-, -, hexp, hlast⟩ := completeAccept_frame p { s with rBusy := none, traceWaits := false }
    refine ⟨?_, ?_, hexp, hlast, ?_, ?_⟩
    all_goals rw [completeAccept_eq_acked]; rfl

end Sys2Proof.Machine
end

section
/-! PROOFS. Running the machine step by step applies a trace record by record (44_host.md R256). -/

namespace Sys2Proof.Machine

/-- Nothing is offered and no transaction is in progress, so that only the trace is left to take from. -/
structure TraceOnly (s : State) : Prop where
  quiet : Expected.quiet s
  free : s.rBusy = none
  moving : s.traceWaits = false

theorem TraceOnly.fetch_eq {s : State} (h : TraceOnly s) (b : Bytes) :
    fetch { s with trace := b } = fetchTrace { s with trace := b } :=
  fetch_of_quiet (s := { s with trace := b }) h.quiet (.inl h.free)

/-- A record that is neither held nor waits keeps it so. -/
theorem TraceOnly.execState {s : State} (h : TraceOnly s) {i : Instr} (hw : waits i s = false) :
    TraceOnly (finish (execState i s)) := by
  obtain ⟨hports, -, -, htw⟩ := execState_environment i s
  obtain ⟨ready, hq⟩ := h.quiet
  refine ⟨⟨ready, hports.trans hq⟩, ?_, ?_⟩
  all_goals by_cases hi : i = .rst
  · subst hi; rfl
  · exact (execState_keepsBusy hi hw).1.trans h.free
  · subst hi; rfl
  · exact (htw hi).trans h.moving

/-- No instruction reads the trace, or writes it. -/
theorem execState_setTrace (i : Instr) (s : State) (b : Bytes) :
    Machine.execState i { s with trace := b } = { Machine.execState i s with trace := b } := by
  by_cases hi : i = .rst
  · subst hi; rfl
  · rcases execState_acts hi with ha | ha | ⟨a, rfl⟩
    · obtain ⟨x, c, es, hs⟩ := ha.writes s
      rw [ha.eq_withSender (t := { s with trace := b }) hs rfl rfl rfl, hs]
      rfl
    · obtain ⟨x, c, busy, es, hs⟩ := ha.writes s
      rw [ha.eq_withReceiver (t := { s with trace := b }) hs rfl rfl rfl rfl rfl, hs]
      rfl
    · rfl

theorem held_setTrace (i : Instr) (s : State) (b : Bytes) : held i { s with trace := b } = held i s := by
  cases i <;> rfl

/-- A trace that waits for the application stays. -/
theorem step_of_waiting {s : State} (hq : Expected.quiet s) (hd : s.ports.rDlvReady = false)
    (hw : s.traceWaits = true) : step s = .next s :=
  step_of_stuck ((fetch_of_quiet hq (.inr hd)).trans (fetchTrace_of_waiting hw))

section Record

variable {s : State} {b rest : Bytes} {i : Instr} (h : TraceOnly s) (hd : decodeRecord b = .ok (i, rest))
include h hd

/-- The step of a record that is applied. -/
theorem step_applies (hh : held i s = false) (hw : waits i s = false) :
    step { s with trace := b } = .next { finish (execState i s) with trace := rest } := by
  have hf := (h.fetch_eq b).trans (fetchTrace_of_run (s := { s with trace := b }) h.moving hd ((held_setTrace i s b).trans hh) hw)
  rw [step_of_run hf, complete_exec]
  exact congrArg (fun u => Host.Outcome.next (finish u)) (execState_setTrace i s rest)

/-- The trace stays at a record that is held. -/
theorem step_held (hh : held i s = true) : step { s with trace := b } = .next { s with trace := b } :=
  step_of_stuck ((h.fetch_eq b).trans (fetchTrace_of_held (s := { s with trace := b }) h.moving hd ((held_setTrace i s b).trans hh)))

/-- A record that waits leaves the trace, which then stays. -/
theorem step_waits (hh : held i s = false) (hw : waits i s = true) :
    ∃ t, step { s with trace := b } = .next t ∧ t.traceWaits = true ∧ step t = .next t := by
  have hf := (h.fetch_eq b).trans (fetchTrace_of_waits (s := { s with trace := b }) h.moving hd ((held_setTrace i s b).trans hh) hw)
  obtain ⟨d, -, haw, -, e⟩ := execState_waits (s := { s with trace := rest, traceWaits := true }) hw
  obtain ⟨-, -, hready⟩ := acceptWaits_eq_true.mp haw
  refine ⟨_, (step_of_start hf).trans ((exec_eq_next i _).trans (congrArg _ e)), rfl, ?_⟩
  exact step_of_waiting h.quiet hready rfl

end Record

/-- A list of records that is applied to its end is stepped to the same end, from the trace that spells it. -/
theorem run_of_ended {is : List Instr} {n : Nat} {b : Bytes} {s t : State} (h : TraceOnly s)
    (hd : decodeRecords n b = .ok is) (hrun : runRecords is s = .ended t) :
    Host.Core.run Sys2Proof.core is.length { s with trace := b } = .next { t with trace := [] } := by
  induction is generalizing n b s with
  | nil =>
    cases hrun
    cases b with
    | nil => rfl
    | cons x b =>
      obtain ⟨_, _, _, _, _, _, _, he⟩ := decodeRecords_ok_cons hd
      cases he
  | cons i is ih =>
    cases b with
    | nil => rw [decodeRecords_nil] at hd; cases hd
    | cons x b =>
      obtain ⟨m, _, rest, _, _, hread, hrest, he⟩ := decodeRecords_ok_cons hd
      cases he
      obtain ⟨hh, hw⟩ := not_stuck_of_ended hrun
      rw [runRecords_cons hh hw] at hrun
      rw [List.length_cons, run_succ (step_applies h hread hh hw)]
      exact ih (h.execState hw) hrest hrun

/-- A list of records that gets stuck is stepped to a state at which the machine stays. -/
theorem run_of_stuck {is : List Instr} {n : Nat} {b : Bytes} {s : State} (h : TraceOnly s)
    (hd : decodeRecords n b = .ok is) (hrun : runRecords is s = .stuck) :
    ∃ k t, Host.Core.run Sys2Proof.core k { s with trace := b } = .next t ∧ (t.trace ≠ [] ∨ t.traceWaits = true) ∧
      step t = .next t := by
  induction is generalizing n b s with
  | nil => cases hrun
  | cons i is ih =>
    cases b with
    | nil => rw [decodeRecords_nil] at hd; cases hd
    | cons x b =>
      obtain ⟨m, _, rest, _, _, hread, hrest, he⟩ := decodeRecords_ok_cons hd
      cases he
      cases hh : held i s with
      | true => exact ⟨0, _, rfl, .inl (List.cons_ne_nil x b), step_held h hread hh⟩
      | false =>
        cases hw : waits i s with
        | true =>
          obtain ⟨t, hstep, hwaits, hstay⟩ := step_waits h hread hh hw
          exact ⟨1, t, run_succ hstep 0, .inr hwaits, hstay⟩
        | false =>
          rw [runRecords_cons hh hw] at hrun
          obtain ⟨k, t, hk, hleft, hstay⟩ := ih (h.execState hw) hrest hrun
          exact ⟨k + 1, t, (run_succ (step_applies h hread hh hw) k).trans hk, hleft, hstay⟩

/-- Settles O53, by induction on the records. -/
theorem steppingAppliesTrace : Obligations.SteppingAppliesTrace := by
  intro s hq hb hw
  have h : TraceOnly s := ⟨hq, hb, hw⟩
  refine ⟨fun is t hd hrun => ?_, fun hrun => ?_⟩
  · rw [runTrace, hd] at hrun
    exact run_of_ended h hd hrun
  · cases hd : decodeTrace s.trace with
    | error e => rw [runTrace, hd] at hrun; cases hrun
    | ok is =>
      rw [runTrace, hd] at hrun
      obtain ⟨k, t, hk, hleft, hstay⟩ := run_of_stuck h hd hrun
      exact ⟨k, t, hk, hleft, run_fixed hstay⟩

end Sys2Proof.Machine
end

section
/-! PROOFS. The detection claims of the checksum (40_checksum.md R136). -/

namespace Sys2Proof.Machine

/-- What a byte counts for in the word sum: the high byte of a word 256 times (R130). -/
def byteWeight (k : Nat) : Nat := if k % 2 = 0 then 256 else 1

/-- A byte written over another takes its place in the sum. -/
theorem wordSum_set {p : Bytes} {k : Nat} (h : k < p.length) (x : Byte) :
    wordSum (p.set k x) + byteWeight k * (p.getD k 0#8).toNat = wordSum p + byteWeight k * x.toNat := by
  induction p using wordSum.induct generalizing k with
  | case1 => cases h
  | case2 hi =>
    obtain rfl : k = 0 := by simpa using h
    simp [wordSum, byteWeight, Nat.mul_comm, Nat.add_comm]
  | case3 hi lo rest ih =>
    rcases k with _ | _ | k
    · simp [wordSum, byteWeight]; omega
    · simp [wordSum, byteWeight]; omega
    · have hk : k < rest.length := by simpa using h
      have hweight : byteWeight (k + 1 + 1) = byteWeight k := by simp only [byteWeight, Nat.add_assoc, Nat.reduceAdd, Nat.add_mod_right]
      have hrest := ih hk
      rw [hweight, List.getD_cons_succ, List.getD_cons_succ, List.set_cons_succ, List.set_cons_succ, wordSum, wordSum]
      omega

/-- A change of one byte moves the sum by less than 0xFFFF, so it is detected. -/
theorem verify_set_ne {p : Bytes} {k : Nat} {x : Byte} (hv : verify p = true) (hk : k < p.length)
    (hx : x ≠ p.getD k 0#8) : verify (p.set k x) = false := by
  have hsum := wordSum_set hk x
  have hne := BitVec.toNat_ne.mp hx
  have hlt := x.isLt
  have hlt' := (p.getD k 0#8).isLt
  rw [← Bool.not_eq_true, verify_iff]
  rw [verify_iff] at hv
  unfold byteWeight at hsum
  split at hsum <;> omega

/-- Settles O16: inverting a bit changes its byte. -/
theorem singleBitInversionIsDetected : Obligations.SingleBitInversionIsDetected := by
  intro p k j hv hk hj
  refine verify_set_ne hv hk fun heq => ?_
  have hbit := congrArg (BitVec.getLsbD · j) heq
  simp [hj] at hbit

/-- Settles O17: `Verify` reads the sum's residue, once it is positive. -/
theorem cancellingChangesAreUndetected : Obligations.CancellingChangesAreUndetected := by
  intro p q hp hpos hmod
  rw [verify_iff] at hp ⊢
  exact ⟨Nat.ne_of_gt hpos, hmod.trans hp.2⟩

end Sys2Proof.Machine
end

section
/-! PROOFS. The other forms of a transaction: beats on a port (30_encoding.md R103), lines of a textual trace (R107) and
pseudo-records (R108). -/

namespace Sys2Proof.Machine

/-! ## Beats -/

theorem takeData_map (b : Bytes) (rest : List Beat) : takeData b.length (b.map .data ++ rest) = some (b, rest) := by
  induction b with
  | nil => rfl
  | cons x b ih => simp [takeData, ih]

/-- Settles O9: the header beat holds the number of the data beats. -/
theorem portTransferIsReadBack : Obligations.PortTransferIsReadBack := by
  intro b rest hb
  have hlen := lengthField_toNat (operandOk_iff.mpr hb)
  refine ⟨by simp [beats, Nat.add_comm], ?_⟩
  rw [beats, List.cons_append, takeTransfer, hlen, takeData_map]

/-! ## Pseudo-records -/

theorem lastSTx_eq_getLast? (es : List (Nat × Event)) : lastSTx es = (sentDatagrams es).getLast? := by
  induction es with
  | nil => rfl
  | cons e es ih =>
    obtain ⟨k, e⟩ := e
    cases e with
    | sTx d =>
      have hsent : sentDatagrams ((k, .sTx d) :: es) = d :: sentDatagrams es := rfl
      rw [lastSTx, ih, hsent, List.getLast?_cons, Option.or_some]
    | _ => exact ih

theorem lastRTx_eq_getLast? (es : List (Nat × Event)) : lastRTx es = (ackDatagrams es).getLast? := by
  induction es with
  | nil => rfl
  | cons e es ih =>
    obtain ⟨k, e⟩ := e
    cases e with
    | rTx d =>
      have hsent : ackDatagrams ((k, .rTx d) :: es) = d :: ackDatagrams es := rfl
      rw [lastRTx, ih, hsent, List.getLast?_cons, Option.or_some]
    | _ => exact ih

/-- Settles O11: the most recent datagram is the last of those transmitted. -/
theorem pseudoRecordsExpand : Obligations.PseudoRecordsExpand := by
  intro s
  refine ⟨fun n hn => ?ticks, fun before after k d hlog hafter => ?fwdS, fun before after k d hlog hafter => ?fwdR, rfl,
    fun l ls is hl hlong => ?limit⟩
  case ticks =>
    obtain ⟨m, rfl⟩ : ∃ m, n = m + 1 := ⟨n - 1, by omega⟩
    rfl
  case fwdS =>
    have hlast : lastSTx s.log = some d := by
      rw [lastSTx_eq_getLast?, hlog, sentDatagrams_append, List.getLast?_append,
        show sentDatagrams ((k, .sTx d) :: after) = d :: sentDatagrams after from rfl, hafter]
      rfl
    rw [expandLine, hlast]
    rfl
  case fwdR =>
    have hlast : lastRTx s.log = some d := by
      rw [lastRTx_eq_getLast?, hlog, ackDatagrams, List.filterMap_append, List.getLast?_append]
      change ((d :: ackDatagrams after).getLast?.or _) = _
      rw [hafter]
      rfl
    rw [expandLine, hlast]
    rfl
  case limit =>
    obtain ⟨i, hi, hwf⟩ := hlong
    have hall : ¬ is.all traceRecord = true := fun h => by
      have hrec := List.all_eq_true.mp h i hi
      simp [traceRecord, hwf] at hrec
    simp only [runLines, hl, if_neg hall]

/-! ## Lines of a textual trace -/

/-- A character that neither ends a word nor begins a comment or a text. -/
def plainChar (c : Char) : Bool := c != quoteChar && c != ';' && c != ' '

/-- A word that is split off as it stands. -/
def plainWord (w : List Char) : Bool := !w.isEmpty && w.all plainChar

theorem plainChar_iff {c : Char} : plainChar c = true ↔ c ≠ quoteChar ∧ c ≠ ';' ∧ c ≠ ' ' := by
  simp [plainChar, and_assoc]

theorem plainWord_iff {w : List Char} : plainWord w = true ↔ w ≠ [] ∧ ∀ c ∈ w, plainChar c = true := by
  simp [plainWord]

/-- A line of the words `ws`, with a space between two of them. -/
def joinWords (ws : List (List Char)) : List Char := [' '].intercalate ws

theorem joinWords_cons_cons (w v : List Char) (ws : List (List Char)) :
    joinWords (w :: v :: ws) = w ++ ' ' :: joinWords (v :: ws) := by
  rw [joinWords, List.intercalate_cons_cons, List.append_assoc]
  rfl

theorem joinWords_singleton (w : List Char) : joinWords [w] = w := by
  simp [joinWords]

theorem dropComment_plain {w : List Char} (h : ∀ c ∈ w, plainChar c = true) (cs : List Char) :
    dropComment false (w ++ cs) = w ++ dropComment false cs := by
  induction w with
  | nil => rfl
  | cons c w ih =>
    obtain ⟨hc, hw⟩ := List.forall_mem_cons.mp h
    obtain ⟨hquote, hsemi, -⟩ := plainChar_iff.mp hc
    rw [List.cons_append, dropComment, if_neg hquote, if_neg fun h => hsemi h.1, ih hw]
    rfl

theorem splitWords_plain {w : List Char} (h : ∀ c ∈ w, plainChar c = true) (acc cs : List Char) :
    splitWords false acc (w ++ cs) = splitWords false (w.reverse ++ acc) cs := by
  induction w generalizing acc with
  | nil => rfl
  | cons c w ih =>
    obtain ⟨hc, hw⟩ := List.forall_mem_cons.mp h
    obtain ⟨hquote, -, hspace⟩ := plainChar_iff.mp hc
    rw [List.cons_append, splitWords, if_neg fun h => hspace h.1, if_neg hquote, ih hw, List.reverse_cons,
      List.append_assoc]
    rfl

theorem dropComment_space (cs : List Char) : dropComment false (' ' :: cs) = ' ' :: dropComment false cs := by
  rw [dropComment, if_neg (by decide), if_neg (by decide)]

/-- A space ends a word. -/
theorem splitWords_space {w : List Char} (h : w ≠ []) (cs : List Char) :
    splitWords false w.reverse (' ' :: cs) = w :: splitWords false [] cs := by
  rw [splitWords, if_pos ⟨rfl, rfl⟩, if_neg (mt List.reverse_eq_nil_iff.mp h), List.reverse_reverse]

theorem splitWords_end {w : List Char} (h : w ≠ []) : splitWords false w.reverse [] = [w] := by
  rw [splitWords, if_neg (mt List.reverse_eq_nil_iff.mp h), List.reverse_reverse]

/-- A line of plain words is cut into them, and no comment is dropped. -/
theorem splitWords_joinWords {ws : List (List Char)} (h : ∀ w ∈ ws, plainWord w = true) :
    splitWords false [] (dropComment false (joinWords ws)) = ws := by
  induction ws with
  | nil => rfl
  | cons w ws ih =>
    obtain ⟨hw, hws⟩ := List.forall_mem_cons.mp h
    obtain ⟨hne, hplain⟩ := plainWord_iff.mp hw
    cases ws with
    | nil =>
      have hdrop := dropComment_plain hplain []
      have hsplit := splitWords_plain hplain [] []
      rw [List.append_nil] at hdrop hsplit
      rw [joinWords_singleton, hdrop, dropComment, List.append_nil, hsplit, List.append_nil, splitWords_end hne]
    | cons v ws =>
      rw [joinWords_cons_cons, dropComment_plain hplain, dropComment_space, splitWords_plain hplain, List.append_nil,
        splitWords_space hne, ih hws]

theorem readKeyword_spelling (k : Keyword) : readKeyword k.spelling = some k ∧ plainWord k.spelling = true := by
  cases k <;> decide

/-- A line of a keyword and plain operand words is read as what the keyword makes of them. -/
theorem readLine_joinWords (k : Keyword) {ws : List (List Char)} (h : ∀ w ∈ ws, plainWord w = true) :
    readLine (joinWords (k.spelling :: ws)) = (readWords k ws).map some := by
  obtain ⟨hk, hplain⟩ := readKeyword_spelling k
  simp only [readLine, splitWords_joinWords (List.forall_mem_cons.mpr ⟨hplain, h⟩), hk]

/-! ### Operands -/

theorem hexValue_hexDigit {n : Nat} (h : n < 16) : hexValue (hexDigit n) = some n ∧ plainChar (hexDigit n) = true := by
  revert n
  decide

theorem readHex_writeHex (b : Bytes) : readHex (writeHex b) = some b ∧ ∀ c ∈ writeHex b, plainChar c = true := by
  induction b with
  | nil => exact ⟨rfl, nofun⟩
  | cons x b ih =>
    obtain ⟨hread, hplain⟩ := ih
    obtain ⟨hhi, hhiPlain⟩ := hexValue_hexDigit (n := x.toNat / 16) (by omega)
    obtain ⟨hlo, hloPlain⟩ := hexValue_hexDigit (n := x.toNat % 16) (by omega)
    refine ⟨?_, List.forall_mem_cons.mpr ⟨hhiPlain, List.forall_mem_cons.mpr ⟨hloPlain, hplain⟩⟩⟩
    simp only [writeHex, readHex, hhi, hlo, hread, Nat.div_add_mod, BitVec.ofNat_toNat, BitVec.setWidth_eq]

/-- An operand within the limit is read back, a longer one is none (log 24). -/
theorem readOperand_writeOperand (b : Bytes) :
    readOperand (writeOperand b) = if operandOk b = true then some b else none := by
  have hbytes : readBytes (writeOperand b) = readHex (writeHex b) := rfl
  rw [readOperand, hbytes, (readHex_writeHex b).1, carried, Option.filter_some]

theorem plainWord_writeOperand (b : Bytes) : plainWord (writeOperand b) = true :=
  plainWord_iff.mpr ⟨List.cons_ne_nil _ _, List.forall_mem_cons.mpr ⟨by decide,
    List.forall_mem_cons.mpr ⟨by decide, (readHex_writeHex b).2⟩⟩⟩

/-! ### Records -/

/-- A record with a byte string. -/
theorem readLine_operand {k : Keyword} {mk : Bytes → Instr}
    (hk : ∀ v, readWords k [v] = (readOperand v).map fun b => .record (mk b)) {b : Bytes}
    (hwf : (mk b).wf = operandOk b) :
    readLine (writeWith k (writeOperand b)) = if (mk b).wf = true then some (some (.record (mk b))) else none := by
  have hline : writeWith k (writeOperand b) = joinWords [k.spelling, writeOperand b] := by
    rw [joinWords_cons_cons, joinWords_singleton]; rfl
  rw [hline, readLine_joinWords k (List.forall_mem_singleton.mpr (plainWord_writeOperand b)), hk,
    readOperand_writeOperand, hwf]
  split <;> rfl

/-- A record that is its keyword. -/
theorem readLine_keyword (k : Keyword) : readLine k.spelling = (readWords k []).map some := by
  have h := readLine_joinWords k (ws := []) nofun
  rwa [joinWords_singleton] at h

theorem readBit_writeBit (name : List Char) (x : Bool) : readBit name (writeBit name x) = some x := by
  cases x <;> simp [readBit, writeBit]

theorem plainWord_writeBit {name : List Char} (h : name.all plainChar = true) (x : Bool) :
    plainWord (writeBit name x) = true := by
  have hbit : ['=', if x then '1' else '0'].all plainChar = true := by cases x <;> decide
  simp only [plainWord, writeBit, List.all_append, h, hbit, Bool.and_true]
  simp

theorem readLine_cEncode (a q : Bool) {p : Bytes} {line : List Char} (hw : writeRecord (.cEncode a q p) = some line) :
    readLine line = if operandOk p = true then some (some (.record (.cEncode a q p))) else none := by
  have hline : joinWords [Keyword.encode.spelling, writeBit ['a', 'c', 'k'] a, writeBit ['s', 'e', 'q'] q,
      writeOperand p] = line := by
    simp only [joinWords_cons_cons, joinWords_singleton]
    exact Option.some.inj hw
  have hplain : ∀ w ∈ [writeBit ['a', 'c', 'k'] a, writeBit ['s', 'e', 'q'] q, writeOperand p], plainWord w = true := by
    simp only [List.forall_mem_cons]
    exact ⟨plainWord_writeBit rfl a, plainWord_writeBit rfl q, plainWord_writeOperand p, nofun⟩
  rw [← hline, readLine_joinWords _ hplain]
  simp only [readWords, readBit_writeBit, readOperand_writeOperand]
  by_cases hp : operandOk p = true
  · simp only [if_pos hp]
    rfl
  · simp only [if_neg hp]
    rfl

theorem readLine_hRead {a : BitVec 4} {line : List Char} (hw : writeRecord (.hRead a) = some line) :
    readLine line = some (some (.record (.hRead a))) := by
  obtain ⟨hvalue, hplain⟩ := hexValue_hexDigit a.isLt
  have hline : joinWords [Keyword.read.spelling, ['0', 'x', hexDigit a.toNat]] = line := by
    rw [joinWords_cons_cons, joinWords_singleton]
    exact Option.some.inj hw
  have hword : plainWord ['0', 'x', hexDigit a.toNat] = true :=
    plainWord_iff.mpr ⟨nofun, List.forall_mem_cons.mpr ⟨by decide, List.forall_mem_cons.mpr ⟨by decide,
      List.forall_mem_singleton.mpr hplain⟩⟩⟩
  rw [← hline, readLine_joinWords _ (List.forall_mem_singleton.mpr hword), readWords, readRegister, hvalue]
  simp

theorem readLine_writeRecord {i : Instr} {line : List Char} (hw : writeRecord i = some line) :
    readLine line = if i.wf = true then some (some (.record i)) else none := by
  cases i with
  | dataSeq0 | dataSeq1 | ackSeq0 | ackSeq1 => cases hw
  | sSend | sResp | rDgram | cCsum | cVerify | cDecode => cases hw; exact readLine_operand (fun _ => rfl) rfl
  | sTick | sTxFail | rTxFail | rst => cases hw; exact readLine_keyword _
  | cEncode a q p => exact readLine_cEncode a q hw
  | hRead a => exact readLine_hRead hw

/-- What a line of a keyword and a byte string is read as. -/
theorem operandRecord_ok {mk : Bytes → Instr} (hmk : ∀ b, (mk b).wf = operandOk b ∧ (mk b).channel = .trace)
    {w : List Char} {i : Instr} (h : (readOperand w).map (fun b => Line.record (mk b)) = some (.record i)) :
    i.wf = true ∧ i.channel = .trace := by
  obtain ⟨b, hb, hi⟩ := Option.map_eq_some_iff.mp h
  obtain ⟨hwf, hchannel⟩ := hmk b
  obtain rfl : mk b = i := Line.record.inj hi
  exact ⟨hwf.trans (carried_eq_some.mp hb).2, hchannel⟩

/-- A keyword and its words are read as a well-formed trace record, if as a record. -/
theorem readWords_record {k : Keyword} {ws : List (List Char)} {i : Instr} (h : readWords k ws = some (.record i)) :
    i.wf = true ∧ i.channel = .trace := by
  unfold readWords at h
  split at h
  case h_7 =>
    split at h
    next hb => cases h; exact ⟨(carried_eq_some.mp hb).2, rfl⟩
    next => cases h
  case h_9 =>
    obtain ⟨a, -, ha⟩ := Option.map_eq_some_iff.mp h
    cases ha
    exact ⟨rfl, rfl⟩
  case h_13 =>
    split at h
    · cases h
    · obtain ⟨n, -, hn⟩ := Option.map_eq_some_iff.mp h
      cases hn
  case h_3 | h_10 | h_11 | h_12 => cases h; exact ⟨rfl, rfl⟩
  case h_14 | h_15 | h_16 | h_17 => cases h
  all_goals exact operandRecord_ok (fun _ => ⟨rfl, rfl⟩) h

theorem readLine_record {line : List Char} {i : Instr} (h : readLine line = some (some (.record i))) :
    i.wf = true ∧ i.channel = .trace := by
  unfold readLine at h
  split at h
  · cases h
  · split at h
    · cases h
    · obtain ⟨l, hl, hi⟩ := Option.map_eq_some_iff.mp h
      cases hi
      exact readWords_record hl

/-- Settles O10: a written line is cut into its words again, and a word is read as the operand it was written from. -/
theorem traceTextIsReadBack : Obligations.TraceTextIsReadBack :=
  ⟨fun _ _ => readLine_writeRecord, fun _ _ => readLine_record⟩

end Sys2Proof.Machine
end
